-- ==== Sys2Proof/Word.lean ====
section
/-! DEFINITION. The words of the links and of the records: bytes, 16-bit fields and 32-bit counters
(11_formats.md), and the two ways a counter counts (00_scope.md, "Counters"). -/

namespace Sys2Proof

/-- One byte of a frame. -/
abbrev Byte := BitVec 8

/-- A 16-bit field: an address, a request id, the generation, a detail. -/
abbrev Word := BitVec 16

/-- A 32-bit counter. Addition wraps, as a "wrapping" counter does. -/
abbrev Count := BitVec 32

end Sys2Proof
end

