-- ==== Sys2Proof/Syntax.lean ====
section
/-! DEFINITION. The events the part takes: one constructor of `Instr` for each row of
spec/opcode_table.json, with the operands that the environment chooses. -/

namespace Sys2Proof

/-- The five ports; port numbers 0 to 4 (00_scope.md, "Ports"). -/
inductive Port where
  | t | b1 | b2 | b3 | b4
deriving DecidableEq, Repr

/-- The eight notice sources, in rank order 0 to 7 (R184). -/
inductive Source where
  | storeExhausted | portBlocked | syncLost | moveStorm
  | stationFull | meterSpent | claimExpired | ruleHit
deriving DecidableEq, Repr

/-- What ended a frame in reception (R115). -/
inductive Ending where
  | endMark | abortMark | idleFill | startMark
deriving DecidableEq, Repr

/-- The events of the part. An execution event carries no operand: the request it executes stands in the
execution position and its arguments in that request's slot (R143, R145). -/
inductive Instr where
  /-- RESET_N goes low (R200). -/
  | resetNLow
  /-- RESET_N is released while the straps ADDR5..ADDR0 stand at `straps` (R201, R137). -/
  | resetNRelease (straps : BitVec 6)
  /-- The start-up sweep completes (R202). -/
  | sweepComplete
  /-- The restart point of RESTART FULL (R205). -/
  | restartPoint
  /-- The data bytes `data` arrived on `port` since its start mark or the last event there, and then
  `ending` ended the frame in reception (R115, R117). -/
  | endOfFrame (port : Port) (data : List Byte) (ending : Ending)
  /-- The oldest frame of `port` that awaits classification is classified (R28, R30). -/
  | classification (port : Port)
  /-- The end mark of the transmission on `port` has been sent (R107). -/
  | transmitComplete (port : Port)
  /-- The bank copy has written position 127 (R22). -/
  | copyComplete
  /-- The claim timer expires (R152). -/
  | claimExpiry
  /-- The sync timer expires (R132). -/
  | syncTimerExpiry
  /-- The block timer of `port` expires (R126). -/
  | blockTimerExpiry (port : Port)
  /-- The error window of `port` expires (R124). -/
  | errorWindowExpiry (port : Port)
  /-- The move window expires (R60). -/
  | moveWindowExpiry
  /-- The aging clock ticks (R61). -/
  | agingTick
  /-- The period timer of meter `meter` expires (R77, R79). -/
  | periodExpiry (meter : Nat)
  /-- The resend timer of `source` expires (R191, R192). -/
  | resendTimerExpiry (source : Source)
  /-- The Notice Unit takes its service event (R187). -/
  | noticeService
  | identify | readStatus | claim | release | setAddress | setPort | readPort | readPortClear
  | writeBankHead | writeRule | clearRule | readRule | copyBank | switchBank
  | writeStation | deleteStation | flushStations | readStationAddress | readStationIndex | setAging
  | setMeter | rearmMeter | readMeter | readMeterClear | setSync | setNotice | noticeAck
  | restartFull | restartTraffic | unknownCommand
  /-- A start mark arrives on `port` (R115). -/
  | startMark (port : Port)
deriving DecidableEq, Repr

end Sys2Proof
end

