-- ==== Sys2Proof/Decode.lean ====
section
/-! DEFINITION. The events that words of the opcode table spell. The table gives no row any bits ("fields": [] and no
"fixed"), so no word spells an event: the events reach the part as marks, pins and times, not as encoded words. What
is encoded on the links, the frame, the request and the rule record, is read in Machine/Formats.lean. -/

namespace Sys2Proof

/-- The event that the low `nbits` bits of `w` spell: none, for every word (log entry 18). -/
def decodeTableWord (_ _ : Nat) : Option Instr := none

end Sys2Proof
end

