-- ==== Sys2Proof/Config.lean ====
section
/-! DEFINITION. The numbers the data sheet fixes for the part, and the one free value of the model: an order that the
data sheet leaves open. -/

namespace Sys2Proof.Config

/-- Slots of the Frame Store (R89). -/
def slotCount : Nat := 384
/-- Entries of one class queue (R97). -/
def queueDepth : Nat := 32
/-- Positions of one bank (R1). -/
def positionCount : Nat := 128
/-- Entries of the Station Table (R53). -/
def stationCapacity : Nat := 256
/-- Meters of the Meter bank (R72). -/
def meterCount : Nat := 32
/-- Records of the request queue (R143). -/
def requestDepth : Nat := 4
/-- Entries of the reply cache (R149). -/
def cacheDepth : Nat := 8
/-- Bytes a receive buffer stores (R115). -/
def receiveBytes : Nat := 76
/-- Bytes of the shortest frame (R117). -/
def shortestFrame : Nat := 10
/-- Bytes of the longest payload (R118). -/
def longestPayload : Nat := 64
/-- Vendor code returned by IDENTIFY (R160). -/
def vendorCode : Byte := 0x2D
/-- Part code returned by IDENTIFY (R160). -/
def partCode : Word := 0x0B51
/-- Revision returned by IDENTIFY (R160). -/
def revision : Byte := 1
/-- The station address before the straps are added (R137). -/
def addressBase : Word := 0xE000
/-- The broadcast destination (00_scope.md, terms). -/
def broadcast : Word := 0xFFFF
/-- The repeating interval of the aging clock, the move window and the error windows, in ms (R60, R61, R124). -/
def windowMs : Nat := 1000
/-- The strap levels of `State.reset`. DESIGN CHOICE: the pins are an input; log entry 4, unsafe. -/
def resetStraps : BitVec 6 := 0

/-- FREE VALUE (log entry 8): the outcome of the `k`-th choice of R107, whether the placement of a notice in the slot that
a completed transmission frees comes before the selection of that completion. Either may be the case each time. -/
opaque noticeFirst (k : Nat) : Bool

end Sys2Proof.Config
end

