-- ==== Sys2Proof/Machine/State.lean ====
section
/-! DEFINITION. Everything the data sheet says the part holds, block by block (00_scope.md, block diagram),
as plain data; the reasons a step can stop; and the state at the release of RESET_N. -/

namespace Sys2Proof.Machine

/-! ## Collections -/

/-- One value for each port. -/
structure PerPort (α : Type) where
  t : α
  b1 : α
  b2 : α
  b3 : α
  b4 : α
deriving DecidableEq, Repr

/-- One value for each notice source. -/
structure PerSource (α : Type) where
  storeExhausted : α
  portBlocked : α
  syncLost : α
  moveStorm : α
  stationFull : α
  meterSpent : α
  claimExpired : α
  ruleHit : α
deriving DecidableEq, Repr

/-! ## Frames (R210) -/

/-- The five frame kinds; codes 0 to 4 (R210). -/
inductive Kind where
  | data | sync | mgmt | reply | notice
deriving DecidableEq, Repr

/-- The content of a frame. The must-be-zero bits of R210 are no field: a stored frame has them clear. The
payload length byte is `payload.length`, which validation has found equal to it (R118). -/
structure Frame where
  dest : Word
  src : Word
  kind : Kind
  cls : BitVec 2
  tag : Option (BitVec 12)
  hops : BitVec 4
  seq : Byte
  payload : List Byte
  check : Word
deriving DecidableEq, Repr

/-! ## Rule List (Chapter 1) -/

/-- How the terms of a rule combine (R8). -/
inductive MatchMode where
  | all | any | firstOf
deriving DecidableEq, Repr

/-- The field a term reads (R5, R6). The offset of PAYLOAD is the term's own field, stored whatever the selector. -/
inductive Selector where
  | dest | source | kind | cls | hops | length | seq | tag | payload
deriving DecidableEq, Repr

/-- Whether a term asks for equality or difference (R5). -/
inductive Sense where
  | equal | differ
deriving DecidableEq, Repr

/-- One comparison of a rule (R5, R213). -/
structure Term where
  selector : Selector
  sense : Sense
  offset : Byte
  value : Word
  mask : Word
deriving DecidableEq, Repr

/-- What is done with a decided frame (R9). -/
inductive Verdict where
  | pass | drop | steer
deriving DecidableEq, Repr

/-- What is done with the tag (R9): NONE, SET or STRIP. -/
inductive TagOp where
  | leave | set | strip
deriving DecidableEq, Repr

/-- One action of a rule, with every field as the record of R213 carries it, used or not (R17). -/
structure Action where
  verdict : Verdict
  tagOp : TagOp
  copy : Bool
  notice : Bool
  classPresent : Bool
  meterPresent : Bool
  steerPort : BitVec 4
  classValue : BitVec 4
  portLimit : BitVec 5
  meter : Byte
  tagValue : Word
deriving DecidableEq, Repr

/-- A rule record without its hit counter (1.2, R213). -/
structure Rule where
  mode : MatchMode
  arrival : BitVec 5
  terms : List Term
  actions : List Action
deriving DecidableEq, Repr

/-- What an occupied position holds: its rule and its hit counter (R1, R10). -/
structure Position where
  rule : Rule
  hits : Count
deriving DecidableEq, Repr

/-- The default verdict of a bank header (R1). -/
inductive DefaultVerdict where
  | pass | drop
deriving DecidableEq, Repr

/-- A bank's header (R1). -/
structure Header where
  verdict : DefaultVerdict
  observation : Option Port
deriving DecidableEq, Repr

/-- One bank: its header and its occupied positions, in rising order; an unlisted position is empty, and its
counter is then 0 (R1, R10). -/
structure Bank where
  header : Header
  positions : List (Nat × Position)
deriving DecidableEq, Repr

/-- The two banks' names (R1). -/
inductive BankName where
  | a | b
deriving DecidableEq, Repr

/-- The Rule List (1.1). -/
structure RuleList where
  bankA : Bank
  bankB : Bank
  /-- the working-bank designator (R2) -/
  working : BankName
  generation : Word
  /-- the copy state is COPYING (R21) -/
  copying : Bool
deriving DecidableEq, Repr

/-! ## Station Table (Chapter 3) -/

/-- LEARNED with its age remaining in seconds, or PINNED, which has no age (R53). -/
inductive StationKind where
  | learned (age : Nat)
  | pinned
deriving DecidableEq, Repr

/-- An entry but for its address, which is its key in the table (R53). -/
structure StationEntry where
  port : Port
  kind : StationKind
deriving DecidableEq, Repr

/-- The Station Table (3.1). -/
structure StationTable where
  /-- entries by station address, in rising order (R54) -/
  entries : List (Nat × StationEntry)
  ageLimit : Nat
  threshold : Nat
  moveCount : Nat
  storm : Bool
  /-- ms to the next aging tick (R61) -/
  agingClock : Nat
  /-- ms to the next move window expiry (R60) -/
  moveWindow : Nat
deriving DecidableEq, Repr

/-! ## Meter bank (Chapter 4) -/

/-- The modes of a meter (R72); codes 0 to 3 (R214). -/
inductive MeterMode where
  | off | continuous | single | gated
deriving DecidableEq, Repr

/-- What is done with an exceeding frame (R74). -/
inductive ExceedAction where
  | drop | demote
deriving DecidableEq, Repr

/-- The arm state of a meter (R73). -/
inductive ArmState where
  | armed | spent
deriving DecidableEq, Repr

/-- One meter: six configuration fields, credit, arm state, period timer and two counters (4.1). -/
structure Meter where
  mode : MeterMode
  ceiling : Nat
  refill : Nat
  period : Nat
  exceed : ExceedAction
  trigger : Bool
  credit : Nat
  arm : ArmState
  /-- stopped, or ms to the period expiry -/
  timer : Option Nat
  conform : Count
  exceeded : Count
deriving DecidableEq, Repr

/-- The Meter bank: meters 0 to 31 and the gate state (4.1). -/
structure MeterBank where
  meters : List Meter
  gateOpen : Bool
deriving DecidableEq, Repr

/-! ## Frame Store (Chapter 5) -/

/-- The arrival attribute of a held slot (R90). -/
inductive Origin where
  | port (p : Port)
  | agent
deriving DecidableEq, Repr

/-- What a held slot holds (R89, R90, R91). -/
structure Slot where
  frame : Frame
  origin : Origin
  accepted : Nat
  refs : Nat
deriving DecidableEq, Repr

/-- The Frame Store (5.1). -/
structure FrameStore where
  /-- the held slots by number, in rising order; an unlisted number below 384 is a free slot (R89) -/
  slots : List (Nat × Slot)
  held : PerPort Nat
  /-- for each port, the slots whose frames await their classification, oldest first (R28, R30, R91) -/
  awaiting : PerPort (List Nat)
  clock : Nat
deriving DecidableEq, Repr

/-! ## Ports and egresses (Chapters 5 and 6) -/

/-- The last mark a transmit pair has sent; idle fill follows an end mark or an abort mark (R114). -/
inductive LineMark where
  | idleFill | startMark | endMark | abortMark
deriving DecidableEq, Repr

/-- The round record: the remaining share of each class, 0 for a class that is no member of the round, so that
three zeros are "none" (R101, R102). -/
structure Round where
  left2 : Nat
  left1 : Nat
  left0 : Nat
deriving DecidableEq, Repr

/-- The egress of one port (5.4). -/
structure Egress where
  q3 : List Nat
  q2 : List Nat
  q1 : List Nat
  q0 : List Nat
  /-- IDLE, or SENDING the slot -/
  transmitter : Option Nat
  line : LineMark
  round : Round
  share2 : Nat
  share1 : Nat
  share0 : Nat
  residency : Nat
deriving DecidableEq, Repr

/-- The 20 counters of a port, by name (R130), in the order of R166. -/
inductive Counter where
  | rxGood | rxCrc | rxMalformed | rxAbort | rxQuota | rxNoSlot | rxOwn | rxSyncMisplaced | rxGuard | rxMgmtRefused
  | rxListen | rxExpired | rxRuleDrop | rxLocal | rxUnreach | rxMeterDrop | txGood | txQFull | txStale | txAbort
deriving DecidableEq, Repr

/-- The values of the 20 counters (R130), or of a counter image (R167). -/
structure Counters where
  rxGood : Count
  rxCrc : Count
  rxMalformed : Count
  rxAbort : Count
  rxQuota : Count
  rxNoSlot : Count
  rxOwn : Count
  rxSyncMisplaced : Count
  rxGuard : Count
  rxMgmtRefused : Count
  rxListen : Count
  rxExpired : Count
  rxRuleDrop : Count
  rxLocal : Count
  rxUnreach : Count
  rxMeterDrop : Count
  txGood : Count
  txQFull : Count
  txStale : Count
  txAbort : Count
deriving DecidableEq, Repr

/-- A commanded mode (R120); codes 0 to 2 (R214). -/
inductive Mode where
  | disabled | listen | active
deriving DecidableEq, Repr

/-- A port state (R120); codes 0 to 3 (R214). -/
inductive PortState where
  | disabled | listen | active | blocked
deriving DecidableEq, Repr

/-- A receiver: IDLE, or RECEIVING with its stored bytes and its byte count (R115). -/
inductive Receiver where
  | idle
  | receiving (stored : List Byte) (count : Nat)
deriving DecidableEq, Repr

/-- One port unit with its egress (Chapter 6, 5.4). -/
structure PortUnit where
  commanded : Mode
  state : PortState
  /-- the management allowance is "allowed" (R129) -/
  allowed : Bool
  quota : Nat
  errorLimit : Nat
  blockInterval : Nat
  errorCount : Nat
  /-- ms to the next error window expiry (R124) -/
  errorWindow : Nat
  /-- stopped, or ms remaining (R125, R126) -/
  blockTimer : Option Nat
  receiver : Receiver
  counters : Counters
  image : Counters
  egress : Egress
deriving DecidableEq, Repr

/-- The trunk sync lock, the sync timeout in ms and the sync timer in ms (R131). -/
structure TrunkSync where
  locked : Bool
  timeout : Nat
  timer : Option Nat
deriving DecidableEq, Repr

/-! ## Management Agent (Chapter 7) -/

/-- A request record: its key (source, id), its arrival port and its slot (R143). -/
structure Request where
  source : Word
  id : Word
  port : Port
  slot : Nat
deriving DecidableEq, Repr

/-- A reply cache entry (R149). -/
structure CacheEntry where
  source : Word
  id : Word
  reply : Frame
deriving DecidableEq, Repr

/-- The edit claim while it has a holder: duration in s, claim timer in ms (R150). -/
structure Claim where
  holder : Word
  duration : Nat
  remaining : Nat
deriving DecidableEq, Repr

/-- The Management Agent (Chapter 7). -/
structure Agent where
  address : Word
  queue : List Request
  executing : Option Request
  cache : List CacheEntry
  claim : Option Claim
  restartCount : Nat
  startupDiscards : Count
  reqMalformed : Count
  reqDuplicate : Count
  reqDropped : Count
  replyLost : Count
deriving DecidableEq, Repr

/-! ## Notice Unit (Chapter 9) -/

/-- The notice in service of a source. -/
structure NoticeRecord where
  sequence : Nat
  attempt : Nat
  sent : Nat
  detail : Word
deriving DecidableEq, Repr

/-- One notice source. S is set exactly while `record` is present. -/
structure NoticeSource where
  enabled : Bool
  pending : Bool
  occurrences : Nat
  detail : Word
  record : Option NoticeRecord
  /-- stopped, or ms remaining -/
  timer : Option Nat
  resendDue : Bool
deriving DecidableEq, Repr

/-- The Notice Unit (Chapter 9). `causeDue` and `offerDue` are the model's own: a service event of R187 is due,
from a slot offer (`offerDue`) or from another cause. DEDUCED, log entry 7. -/
structure NoticeUnit where
  target : Word
  port : Port
  /-- in steps of 10 ms -/
  interval : Nat
  sequence : Nat
  /-- the service state is WAITING -/
  waiting : Bool
  lost : Count
  deferred : Count
  sources : PerSource NoticeSource
  causeDue : Bool
  offerDue : Bool
deriving DecidableEq, Repr

/-! ## Device control (Chapter 10) -/

/-- The device states; codes 0 to 2 (R214). -/
inductive DeviceState where
  | starting | running | restarting
deriving DecidableEq, Repr

/-- Device control. -/
structure Device where
  state : DeviceState
  sweeping : Bool
  /-- the slot of the RESTART FULL reply (R111) -/
  restartMark : Option Nat
  /-- the end of that reply's stay has been reported and the restart point has not been taken (R205) -/
  restartDue : Bool
  /-- RESET_N is held low (R200) -/
  resetHeld : Bool
deriving DecidableEq, Repr

/-! ## The part -/

/-- The whole part, and the events that wait to be taken. -/
structure State where
  rules : RuleList
  stations : StationTable
  meters : MeterBank
  store : FrameStore
  ports : PerPort PortUnit
  sync : TrunkSync
  agent : Agent
  notices : NoticeUnit
  device : Device
  /-- how often the order that R107 leaves open has been settled (the model's own): the argument of the next free value
  `Config.noticeFirst`, log entry 8 -/
  choices : Nat
  /-- the events waiting, first in, first out (the model's own) -/
  pending : List Instr
deriving DecidableEq, Repr

/-- Why a step stops with a fault. -/
inductive Fault where
  /-- Raised by PERIOD_EXPIRY when its operand names no meter of the part (R72: meters 0 to 31). Safe: such an
  event does not exist, so stopping claims nothing about the part. -/
  | noSuchMeter
deriving DecidableEq, Repr

/-- Why a step has no meaning. -/
inductive Refusal where
  /-- Raised by `exec` for an event with no meaning yet. Safe. No arm raises it. -/
  | notModelled (mnemonic : String)
deriving DecidableEq, Repr

/-! ## Values at reset -/

/-- Twenty counters at 0 (R130, R168). -/
def Counters.zero : Counters := ⟨0, 0, 0, 0, 0, 0, 0, 0, 0, 0, 0, 0, 0, 0, 0, 0, 0, 0, 0, 0⟩

/-- The round record "none" (R101). -/
def Round.closed : Round := ⟨0, 0, 0⟩

/-- The header the start-up sweep writes: PASS, no observation port (R27). -/
def Header.swept : Header := ⟨.pass, none⟩

/-- A bank as the start-up sweep leaves it (R27). -/
def Bank.swept : Bank := ⟨.swept, []⟩

/-- A meter as the start-up sweep and SET_METER to OFF leave it: the zero configuration, credit 0, ARMED,
counters 0 (R72, R83, R88). -/
def Meter.zero : Meter := ⟨.off, 0, 0, 0, .drop, false, 0, .armed, none, 0, 0⟩

/-- An egress at reset (R113). -/
def Egress.fresh : Egress := ⟨[], [], [], [], none, .idleFill, .closed, 4, 2, 1, 0⟩

/-- A port unit at reset (R113, R136, R168). -/
def PortUnit.fresh : PortUnit :=
  ⟨.active, .active, true, 128, 32, 5, 0, Config.windowMs, none, .idle, .zero, .zero, .fresh⟩

/-- A notice source at reset (R199). -/
def NoticeSource.fresh : NoticeSource := ⟨false, false, 0, 0, none, none, false⟩

/-- The Notice Unit at reset (R199). -/
def NoticeUnit.fresh : NoticeUnit :=
  ⟨0, .t, 50, 0, false, 0, 0, ⟨.fresh, .fresh, .fresh, .fresh, .fresh, .fresh, .fresh, .fresh⟩, false, false⟩

/-- The Agent at reset, at a station address and a restart count (R157). -/
def Agent.fresh (address : Word) (restartCount : Nat) : Agent :=
  ⟨address, [], none, [], none, restartCount, 0, 0, 0, 0, 0⟩

/-- The part at the release of RESET_N: STARTING, the sweep under way (R201). The contents that only the sweep
writes stand at the sweep's own values, and the straps at 0. DESIGN CHOICE, log entry 4. -/
def State.reset : State where
  rules := ⟨.swept, .swept, .a, 0, false⟩
  stations := ⟨[], 300, 16, 0, false, Config.windowMs, Config.windowMs⟩
  meters := ⟨List.replicate Config.meterCount .zero, false⟩
  store := ⟨[], ⟨0, 0, 0, 0, 0⟩, ⟨[], [], [], [], []⟩, 0⟩
  ports := ⟨.fresh, .fresh, .fresh, .fresh, .fresh⟩
  sync := ⟨false, 20, none⟩
  agent := .fresh (Config.addressBase + Config.resetStraps.setWidth 16) 0
  notices := .fresh
  device := ⟨.starting, true, none, false, false⟩
  choices := 0
  pending := []

end Sys2Proof.Machine
end

