-- ==== Sys2Proof/Machine/Assoc.lean ====
section
/-! DEFINITION. Numbered things kept as a list of (number, thing) pairs with rising numbers, one form for equal
contents: the held slots of the Frame Store, the occupied positions of a bank, the entries of the Station
Table. -/

namespace Sys2Proof.Machine

variable {α : Type}

/-- What is listed under the number `k`. -/
def lookup (k : Nat) : List (Nat × α) → Option α
  | [] => none
  | (j, x) :: rest => if j = k then some x else lookup k rest

/-- List `x` under the number `k`, at its place, in place of what was listed there. -/
def put (k : Nat) (x : α) : List (Nat × α) → List (Nat × α)
  | [] => [(k, x)]
  | (j, y) :: rest =>
    if k < j then (k, x) :: (j, y) :: rest
    else if k = j then (k, x) :: rest
    else (j, y) :: put k x rest

/-- List nothing under the number `k`. -/
def remove (k : Nat) : List (Nat × α) → List (Nat × α)
  | [] => []
  | (j, y) :: rest => if j = k then rest else (j, y) :: remove k rest

/-- Apply `f` to every thing listed. -/
def mapValues (f : α → α) (l : List (Nat × α)) : List (Nat × α) :=
  l.map (fun e => (e.1, f e.2))

/-- The lowest number, from `k` upward and below `k + fuel`, that lists nothing, in a list of rising numbers. -/
def lowestFree : Nat → Nat → List (Nat × α) → Option Nat
  | 0, _, _ => none
  | fuel + 1, k, l =>
    match lookup k l with
    | none => some k
    | some _ => lowestFree fuel (k + 1) l

/-- The numbers listed rise strictly: the canonical form. -/
def rising : List (Nat × α) → Bool
  | [] => true
  | [_] => true
  | (j, _) :: (k, y) :: rest => decide (j < k) && rising ((k, y) :: rest)

end Sys2Proof.Machine
end

