-- ==== Sys2Proof/Machine/Formats.lean ====
section
/-! DEFINITION. The byte layouts of 11_formats.md: the check, the frame, the codes, the rule record and the
shared records, each as a writer, and as a reader where the part reads it. -/

namespace Sys2Proof.Machine

/-! ## Bytes (R209: the most significant byte first) -/

/-- One byte of a number. -/
def byte (n : Nat) : List Byte := [BitVec.ofNat 8 n]

/-- A 16-bit field as two bytes. -/
def wordBytes (w : Word) : List Byte := [w.extractLsb' 8 8, w.extractLsb' 0 8]

/-- A number as a 16-bit field. -/
def half (n : Nat) : List Byte := wordBytes (BitVec.ofNat 16 n)

/-- A 32-bit counter as four bytes. -/
def countBytes (c : Count) : List Byte :=
  [c.extractLsb' 24 8, c.extractLsb' 16 8, c.extractLsb' 8 8, c.extractLsb' 0 8]

/-- Two bytes as a 16-bit field. -/
def wordOf (high low : Byte) : Word := high ++ low

/-- The byte at offset `i` of a payload or of an argument list; 0 past its end. -/
def byteAt (bs : List Byte) (i : Nat) : Byte := bs.getD i 0

/-- The 16-bit field at offset `i`. -/
def wordAt (bs : List Byte) (i : Nat) : Word := wordOf (byteAt bs i) (byteAt bs (i + 1))

/-- A flag as a number. -/
def bit (b : Bool) : Nat := if b then 1 else 0

/-! ## Ports and addresses -/

/-- Port numbers 0 to 4 (00_scope.md, "Ports"). -/
def portNumber : Port → Nat
  | .t => 0 | .b1 => 1 | .b2 => 2 | .b3 => 3 | .b4 => 4

/-- The port with a number; none for a number above 4. -/
def portOf : Nat → Option Port
  | 0 => some .t | 1 => some .b1 | 2 => some .b2 | 3 => some .b3 | 4 => some .b4
  | _ => none

/-- The five ports, by number. -/
def allPorts : List Port := [.t, .b1, .b2, .b3, .b4]

/-- The four branches (00_scope.md, "Ports"). -/
def branches : List Port := [.b1, .b2, .b3, .b4]

/-- A set of ports holds port n at bit n (R209). -/
def inPortSet (p : Port) (set : BitVec 5) : Bool := set.getLsbD (portNumber p)

/-- A station address: 0001h to EFFFh (00_scope.md, terms). -/
def isStation (a : Word) : Bool := decide (1 ≤ a.toNat) && decide (a.toNat ≤ 0xEFFF)

/-! ## The check (R211) -/

/-- One bit enters the register. -/
def crcBit (register : Word) (bitIn : Bool) : Word :=
  if register.msb = bitIn then register <<< 1 else (register <<< 1) ^^^ 0x1021

/-- One byte enters the register, most significant bit first. -/
def crcByte (register : Word) (b : Byte) : Word :=
  crcBit (crcBit (crcBit (crcBit (crcBit (crcBit (crcBit (crcBit register
    (b.getLsbD 7)) (b.getLsbD 6)) (b.getLsbD 5)) (b.getLsbD 4))
    (b.getLsbD 3)) (b.getLsbD 2)) (b.getLsbD 1)) (b.getLsbD 0)

/-- The check over a run of bytes: the register begins at FFFFh, and no inversion is made at the end. -/
def crc (bs : List Byte) : Word := bs.foldl crcByte 0xFFFF

/-! ## The frame (R210) -/

/-- Kind codes (R210). -/
def kindCode : Kind → BitVec 3
  | .data => 0 | .sync => 1 | .mgmt => 2 | .reply => 3 | .notice => 4

/-- The kind with a code; none for the malformed codes 5 to 7. -/
def kindOf (c : BitVec 3) : Option Kind :=
  if c = 0 then some .data else if c = 1 then some .sync else if c = 2 then some .mgmt
  else if c = 3 then some .reply else if c = 4 then some .notice else none

/-- The tagged flag. -/
def Frame.tagged (f : Frame) : Bool := f.tag.isSome

/-- Byte 4: kind in bits 7 to 5, class in bits 4 and 3, tagged flag in bit 2, bits 1 and 0 zero. -/
def kindByte (f : Frame) : Byte :=
  kindCode f.kind ++ f.cls ++ BitVec.ofBool f.tagged ++ (0 : BitVec 2)

/-- The two tag bytes of a tagged frame, bits 15 to 12 zero. -/
def tagBytes : Option (BitVec 12) → List Byte
  | none => []
  | some v => wordBytes (v.setWidth 16)

/-- The bytes the check covers: the first byte of the destination to the last byte of the payload. -/
def Frame.body (f : Frame) : List Byte :=
  wordBytes f.dest ++ wordBytes f.src ++
    [kindByte f, f.hops.setWidth 8, BitVec.ofNat 8 f.payload.length, f.seq] ++ tagBytes f.tag ++ f.payload

/-- The bytes of the frame between its start mark and its end mark. -/
def Frame.toBytes (f : Frame) : List Byte := f.body ++ wordBytes f.check

/-- The frame with its check recomputed over its content (R46). -/
def Frame.recheck (f : Frame) : Frame := { f with check := crc f.body }

/-- The header tests of R118 that remain once the header's fields are split off, and the frame they admit. -/
def admitFrame (dest src : Word) (kind : Kind) (cls : BitVec 2) (tag : Option (BitVec 12)) (hops : BitVec 4)
    (lengthByte seq : Byte) (payload : List Byte) (check : Word) : Option Frame :=
  if lengthByte.toNat ≤ Config.longestPayload ∧ payload.length = lengthByte.toNat ∧ dest ≠ 0 ∧ isStation src then
    some ⟨dest, src, kind, cls, tag, hops, seq, payload, check⟩
  else none

/-- The frame that the stored bytes before the check spell, with that check; none when a header test of R118
fails. -/
def readFrame (body : List Byte) (check : Word) : Option Frame :=
  match body with
  | d1 :: d0 :: s1 :: s0 :: b4 :: b5 :: len :: seq :: rest =>
    match kindOf (b4.extractLsb' 5 3) with
    | none => none
    | some kind =>
      if b4.extractLsb' 0 2 = 0 ∧ b5.extractLsb' 4 4 = 0 then
        if b4.getLsbD 2 then
          match rest with
          | t1 :: t0 :: payload =>
            if t1.extractLsb' 4 4 = 0 then
              admitFrame (wordOf d1 d0) (wordOf s1 s0) kind (b4.extractLsb' 3 2)
                (some ((wordOf t1 t0).setWidth 12)) (b5.setWidth 4) len seq payload check
            else none
          | _ => none
        else
          admitFrame (wordOf d1 d0) (wordOf s1 s0) kind (b4.extractLsb' 3 2) none (b5.setWidth 4) len seq rest check
      else none
  | _ => none

/-- The outcome of the tests of R117 on a frame that ended by its end mark. -/
inductive Judgement where
  | bad (c : Counter)
  | good (f : Frame)
deriving DecidableEq, Repr

/-- Tests 2 to 4 of R117 on the stored bytes and the byte count. -/
def judgeFrame (stored : List Byte) (count : Nat) : Judgement :=
  if count < Config.shortestFrame ∨ Config.receiveBytes < count then .bad .rxMalformed
  else
    let body := stored.take (stored.length - 2)
    let check := wordAt stored (stored.length - 2)
    if crc body ≠ check then .bad .rxCrc
    else
      match readFrame body check with
      | none => .bad .rxMalformed
      | some f => .good f

/-! ## Codes (R212, R214) -/

/-- The status of a reply (R154). -/
inductive Status where
  | ok | busy | held | notHolder | notTarget | badArg | badRule | notFound | full | stale | unknown
deriving DecidableEq, Repr

/-- Status codes (R212). -/
def statusCode : Status → Byte
  | .ok => 0x00 | .busy => 0x01 | .held => 0x02 | .notHolder => 0x03 | .notTarget => 0x04 | .badArg => 0x05
  | .badRule => 0x06 | .notFound => 0x07 | .full => 0x08 | .stale => 0x09 | .unknown => 0x0A

/-- A command code of R212 names one of the 25 commands. -/
def knownCommand (c : Byte) : Bool := decide (1 ≤ c.toNat) && decide (c.toNat ≤ 0x1A) && decide (c ≠ 0x09)

/-- Mode codes (R214). -/
def modeCode : Mode → Nat
  | .disabled => 0 | .listen => 1 | .active => 2

/-- The mode with a code; BLOCKED (3) is no mode. -/
def modeOf : Nat → Option Mode
  | 0 => some .disabled | 1 => some .listen | 2 => some .active | _ => none

/-- Port state codes (R214). -/
def portStateCode : PortState → Nat
  | .disabled => 0 | .listen => 1 | .active => 2 | .blocked => 3

/-- Bank codes: 0 for A, 1 for B (R213). -/
def bankCode : BankName → Nat
  | .a => 0 | .b => 1

/-- The bank with a code. -/
def bankOf : Nat → Option BankName
  | 0 => some .a | 1 => some .b | _ => none

/-- Device state codes (R214). -/
def deviceStateCode : DeviceState → Nat
  | .starting => 0 | .running => 1 | .restarting => 2

/-- Meter mode codes (R214). -/
def meterModeCode : MeterMode → Nat
  | .off => 0 | .continuous => 1 | .single => 2 | .gated => 3

/-- The meter mode with a code. -/
def meterModeOf : Nat → Option MeterMode
  | 0 => some .off | 1 => some .continuous | 2 => some .single | 3 => some .gated | _ => none

/-- Exceed action codes (R214). -/
def exceedCode : ExceedAction → Nat
  | .drop => 0 | .demote => 1

/-- The exceed action with a code. -/
def exceedOf : Nat → Option ExceedAction
  | 0 => some .drop | 1 => some .demote | _ => none

/-- A field that holds 0 for no and 1 for yes. -/
def flagOf : Nat → Option Bool
  | 0 => some false | 1 => some true | _ => none

/-- Arm state codes (R214). -/
def armCode : ArmState → Nat
  | .armed => 0 | .spent => 1

/-- Ranks 0 to 7 (R184). -/
def sourceRank : Source → Nat
  | .storeExhausted => 0 | .portBlocked => 1 | .syncLost => 2 | .moveStorm => 3
  | .stationFull => 4 | .meterSpent => 5 | .claimExpired => 6 | .ruleHit => 7

/-- The eight sources, by rank. -/
def allSources : List Source :=
  [.storeExhausted, .portBlocked, .syncLost, .moveStorm, .stationFull, .meterSpent, .claimExpired, .ruleHit]

/-! ## The rule record and the bank header (R213) -/

/-- Match mode codes. -/
def matchModeCode : MatchMode → BitVec 2
  | .all => 0 | .any => 1 | .firstOf => 2

/-- The match mode with a code; 3 fails detail 1. -/
def matchModeOf (c : BitVec 2) : Option MatchMode :=
  if c = 0 then some .all else if c = 1 then some .any else if c = 2 then some .firstOf else none

/-- Selector codes. -/
def selectorCode : Selector → BitVec 4
  | .dest => 0 | .source => 1 | .kind => 2 | .cls => 3 | .hops => 4 | .length => 5 | .seq => 6 | .tag => 7
  | .payload => 8

/-- The selector with a code; 9 to 15 fail detail 5. -/
def selectorOf (c : BitVec 4) : Option Selector :=
  if c = 0 then some .dest else if c = 1 then some .source else if c = 2 then some .kind
  else if c = 3 then some .cls else if c = 4 then some .hops else if c = 5 then some .length
  else if c = 6 then some .seq else if c = 7 then some .tag else if c = 8 then some .payload else none

/-- Sense codes. -/
def senseBit : Sense → Bool
  | .equal => false | .differ => true

/-- The sense a bit stands for. -/
def senseOf (b : Bool) : Sense := if b then .differ else .equal

/-- Verdict codes. -/
def verdictCode : Verdict → BitVec 2
  | .pass => 0 | .drop => 1 | .steer => 2

/-- The verdict with a code; 3 fails detail 7. -/
def verdictOf (c : BitVec 2) : Option Verdict :=
  if c = 0 then some .pass else if c = 1 then some .drop else if c = 2 then some .steer else none

/-- Tag operation codes. -/
def tagOpCode : TagOp → BitVec 2
  | .leave => 0 | .set => 1 | .strip => 2

/-- The tag operation with a code; 3 fails detail 10. -/
def tagOpOf (c : BitVec 2) : Option TagOp :=
  if c = 0 then some .leave else if c = 1 then some .set else if c = 2 then some .strip else none

/-- The six bytes of a term. -/
def termBytes (t : Term) : List Byte :=
  [BitVec.ofBool (senseBit t.sense) ++ (0 : BitVec 3) ++ selectorCode t.selector, t.offset]
    ++ wordBytes t.value ++ wordBytes t.mask

/-- The six bytes of an action. -/
def actionBytes (a : Action) : List Byte :=
  [BitVec.ofBool a.meterPresent ++ BitVec.ofBool a.classPresent ++ BitVec.ofBool a.notice ++ BitVec.ofBool a.copy
      ++ tagOpCode a.tagOp ++ verdictCode a.verdict,
    a.classValue ++ a.steerPort, (0 : BitVec 3) ++ a.portLimit, a.meter] ++ wordBytes a.tagValue

/-- The bytes of a rule record, as READ_RULE returns it. -/
def ruleBytes (r : Rule) : List Byte :=
  [matchModeCode r.mode ++ BitVec.ofNat 3 r.terms.length ++ BitVec.ofNat 3 r.actions.length,
    (0 : BitVec 3) ++ r.arrival] ++ r.terms.flatMap termBytes ++ r.actions.flatMap actionBytes

/-- A count field of the record head makes the record hold this many: itself when 1 to 4, else 4. -/
def heldBy (count : Nat) : Nat := if 1 ≤ count ∧ count ≤ 4 then count else 4

/-- The term count field of a record. -/
def recordTermCount (record : List Byte) : Nat := ((byteAt record 0).extractLsb' 3 3).toNat

/-- The action count field of a record. -/
def recordActionCount (record : List Byte) : Nat := ((byteAt record 0).extractLsb' 0 3).toNat

/-- How many bytes the record's counts call for (R169, R213). -/
def recordLength (record : List Byte) : Nat :=
  2 + 6 * heldBy (recordTermCount record) + 6 * heldBy (recordActionCount record)

/-- The offset of term k of a record. -/
def termOffset (k : Nat) : Nat := 2 + 6 * k

/-- The offset of action k of a record. -/
def actionOffset (record : List Byte) (k : Nat) : Nat := 2 + 6 * heldBy (recordTermCount record) + 6 * k

/-- No must-be-zero bit is set in the record head, in a term or in an action that the record holds (R213). -/
def recordReservedClear (record : List Byte) : Bool :=
  decide ((byteAt record 1).extractLsb' 5 3 = 0) &&
  (List.range (heldBy (recordTermCount record))).all
    (fun k => decide ((byteAt record (termOffset k)).extractLsb' 4 3 = 0)) &&
  (List.range (heldBy (recordActionCount record))).all
    (fun k => decide ((byteAt record (actionOffset record k + 2)).extractLsb' 5 3 = 0))

/-- A BAD_RULE detail: the detail code and the index (R16). -/
structure RuleDetail where
  code : Nat
  index : Nat
deriving DecidableEq, Repr

/-- Tests 5 and 6 of R16 on the six bytes of term `k`, and the term they admit. -/
def readTerm (k : Nat) (bs : List Byte) : Except RuleDetail Term :=
  match selectorOf ((byteAt bs 0).extractLsb' 0 4) with
  | none => .error ⟨5, k⟩
  | some sel =>
    let offset := byteAt bs 1
    if sel = .payload ∧ (offset.toNat % 2 = 1 ∨ 62 < offset.toNat) then .error ⟨6, k⟩
    else .ok ⟨sel, senseOf ((byteAt bs 0).getLsbD 7), offset, wordAt bs 2, wordAt bs 4⟩

/-- Tests 7 to 12 of R16 on the six bytes of action `k`, and the action they admit. -/
def readAction (k : Nat) (bs : List Byte) : Except RuleDetail Action :=
  let b0 := byteAt bs 0
  match verdictOf (b0.extractLsb' 0 2) with
  | none => .error ⟨7, k⟩
  | some verdict =>
    let steer := (byteAt bs 1).extractLsb' 0 4
    let classValue := (byteAt bs 1).extractLsb' 4 4
    let meter := byteAt bs 3
    let tagValue := wordAt bs 4
    if verdict = .steer ∧ 4 < steer.toNat then .error ⟨8, k⟩
    else if b0.getLsbD 6 ∧ 3 < classValue.toNat then .error ⟨9, k⟩
    else
      match tagOpOf (b0.extractLsb' 2 2) with
      | none => .error ⟨10, k⟩
      | some tagOp =>
        if tagOp = .set ∧ 4095 < tagValue.toNat then .error ⟨11, k⟩
        else if b0.getLsbD 7 ∧ 31 < meter.toNat then .error ⟨12, k⟩
        else .ok ⟨verdict, tagOp, b0.getLsbD 4, b0.getLsbD 5, b0.getLsbD 6, b0.getLsbD 7, steer, classValue,
          (byteAt bs 2).extractLsb' 0 5, meter, tagValue⟩

/-- The terms `k`, `k + 1`, … of a record, `n` of them, tested in order. -/
def readTerms : Nat → Nat → List Byte → Except RuleDetail (List Term)
  | 0, _, _ => .ok []
  | n + 1, k, bs =>
    match readTerm k bs with
    | .error d => .error d
    | .ok t =>
      match readTerms n (k + 1) (bs.drop 6) with
      | .error d => .error d
      | .ok ts => .ok (t :: ts)

/-- The actions `k`, `k + 1`, … of a record, `n` of them, tested in order. -/
def readActions : Nat → Nat → List Byte → Except RuleDetail (List Action)
  | 0, _, _ => .ok []
  | n + 1, k, bs =>
    match readAction k bs with
    | .error d => .error d
    | .ok a =>
      match readActions n (k + 1) (bs.drop 6) with
      | .error d => .error d
      | .ok as => .ok (a :: as)

/-- The legality check of R16 on a record that holds all its counts call for, and the rule it admits. -/
def readRuleRecord (record : List Byte) : Except RuleDetail Rule :=
  let nt := recordTermCount record
  let na := recordActionCount record
  let arrival := (byteAt record 1).extractLsb' 0 5
  match matchModeOf ((byteAt record 0).extractLsb' 6 2) with
  | none => .error ⟨1, 0⟩
  | some mode =>
    if nt < 1 ∨ 4 < nt then .error ⟨2, 0⟩
    else if na ≠ (if mode = .firstOf then nt else 1) then .error ⟨3, 0⟩
    else if arrival = 0 then .error ⟨4, 0⟩
    else
      match readTerms nt 0 (record.drop 2) with
      | .error d => .error d
      | .ok terms =>
        match readActions na 0 (record.drop (2 + 6 * nt)) with
        | .error d => .error d
        | .ok actions => .ok ⟨mode, arrival, terms, actions⟩

/-- The byte of a bank header (R213). -/
def headerByte (h : Header) : Byte :=
  (0 : BitVec 1)
    ++ (match h.observation with | none => (7 : BitVec 3) | some p => BitVec.ofNat 3 (portNumber p))
    ++ (0 : BitVec 2) ++ (match h.verdict with | .pass => (0 : BitVec 2) | .drop => 1)

/-- The bank header a byte spells; none where R213 refuses it. -/
def headerOf (b : Byte) : Option Header :=
  if b.getLsbD 7 ∨ b.getLsbD 3 ∨ b.getLsbD 2 then none
  else
    let verdict : Option DefaultVerdict :=
      if b.extractLsb' 0 2 = 0 then some .pass else if b.extractLsb' 0 2 = 1 then some .drop else none
    match verdict with
    | none => none
    | some v =>
      let o := (b.extractLsb' 4 3).toNat
      if o = 7 then some ⟨v, none⟩
      else match portOf o with
        | none => none
        | some p => some ⟨v, some p⟩

/-! ## Shared records (R214) -/

/-- Whole seconds of a time in ms, rounded up (R150, R161, R166). -/
def secondsUp (ms : Nat) : Nat := (ms + 999) / 1000

/-- A station entry: address, port, kind, age (0 for PINNED). -/
def stationBytes (address : Nat) (e : StationEntry) : List Byte :=
  half address ++ byte (portNumber e.port) ++
    (match e.kind with
      | .learned age => byte 1 ++ half age
      | .pinned => byte 2 ++ half 0)

/-- What WRITE_STATION returns of the entry before it: kind, port, age; zeros for none (R214). -/
def stationBeforeBytes : Option StationEntry → List Byte
  | none => byte 0 ++ byte 0 ++ half 0
  | some e =>
    (match e.kind with
      | .learned age => byte 1 ++ byte (portNumber e.port) ++ half age
      | .pinned => byte 2 ++ byte (portNumber e.port) ++ half 0)

/-- A meter record: number, configuration, credit, arm state, gate, time to the next expiry, counters. -/
def meterBytes (n : Nat) (m : Meter) (gateOpen : Bool) : List Byte :=
  byte n ++ byte (meterModeCode m.mode) ++ half m.ceiling ++ half m.refill ++ half m.period
    ++ byte (exceedCode m.exceed) ++ byte (bit m.trigger) ++ half m.credit ++ byte (armCode m.arm)
    ++ byte (bit gateOpen) ++ half (m.timer.getD 0) ++ countBytes m.conform ++ countBytes m.exceeded

/-- The state record of a port (R166, R214). -/
def portStateBytes (u : PortUnit) (held : Nat) : List Byte :=
  byte (modeCode u.commanded) ++ byte (portStateCode u.state) ++ byte (bit u.allowed) ++ half u.quota ++ half held
    ++ byte u.egress.residency ++ byte u.errorLimit ++ byte u.blockInterval
    ++ byte u.egress.share2 ++ byte u.egress.share1 ++ byte u.egress.share0
    ++ byte (secondsUp (u.blockTimer.getD 0)) ++ byte u.errorCount

/-- The first ten counters (COUNTS_1, IMAGE_1), in the order of R166. -/
def countsOne (c : Counters) : List Byte :=
  countBytes c.rxGood ++ countBytes c.rxCrc ++ countBytes c.rxMalformed ++ countBytes c.rxAbort
    ++ countBytes c.rxQuota ++ countBytes c.rxNoSlot ++ countBytes c.rxOwn ++ countBytes c.rxSyncMisplaced
    ++ countBytes c.rxGuard ++ countBytes c.rxMgmtRefused

/-- The other ten counters (COUNTS_2, IMAGE_2), in the order of R166. -/
def countsTwo (c : Counters) : List Byte :=
  countBytes c.rxListen ++ countBytes c.rxExpired ++ countBytes c.rxRuleDrop ++ countBytes c.rxLocal
    ++ countBytes c.rxUnreach ++ countBytes c.rxMeterDrop ++ countBytes c.txGood ++ countBytes c.txQFull
    ++ countBytes c.txStale ++ countBytes c.txAbort

end Sys2Proof.Machine
end

