-- ==== Sys2Proof/Machine/Ops.lean ====
section
/-! DEFINITION. The operations that several blocks share: access to one port, one source, one counter, one
slot; raising an occurrence; claiming, referring to and releasing a slot; placement, selection and the end of
service of an egress; the gate. Each block's own rules stand in its family's file. -/

namespace Sys2Proof.Machine

/-! ## Access -/

/-- The value of port `p`. -/
def PerPort.get {α : Type} (x : PerPort α) : Port → α
  | .t => x.t | .b1 => x.b1 | .b2 => x.b2 | .b3 => x.b3 | .b4 => x.b4

/-- `x` with the value of port `p` replaced. -/
def PerPort.set {α : Type} (x : PerPort α) (p : Port) (v : α) : PerPort α :=
  match p with
  | .t => { x with t := v }
  | .b1 => { x with b1 := v }
  | .b2 => { x with b2 := v }
  | .b3 => { x with b3 := v }
  | .b4 => { x with b4 := v }

/-- `f` applied to the value of every port. -/
def PerPort.map {α : Type} (f : α → α) (x : PerPort α) : PerPort α :=
  ⟨f x.t, f x.b1, f x.b2, f x.b3, f x.b4⟩

/-- The value of source `r`. -/
def PerSource.get {α : Type} (x : PerSource α) : Source → α
  | .storeExhausted => x.storeExhausted | .portBlocked => x.portBlocked | .syncLost => x.syncLost
  | .moveStorm => x.moveStorm | .stationFull => x.stationFull | .meterSpent => x.meterSpent
  | .claimExpired => x.claimExpired | .ruleHit => x.ruleHit

/-- `x` with the value of source `r` replaced. -/
def PerSource.set {α : Type} (x : PerSource α) (r : Source) (v : α) : PerSource α :=
  match r with
  | .storeExhausted => { x with storeExhausted := v }
  | .portBlocked => { x with portBlocked := v }
  | .syncLost => { x with syncLost := v }
  | .moveStorm => { x with moveStorm := v }
  | .stationFull => { x with stationFull := v }
  | .meterSpent => { x with meterSpent := v }
  | .claimExpired => { x with claimExpired := v }
  | .ruleHit => { x with ruleHit := v }

/-- `f` applied to the value of every source. -/
def PerSource.map {α : Type} (f : α → α) (x : PerSource α) : PerSource α :=
  ⟨f x.storeExhausted, f x.portBlocked, f x.syncLost, f x.moveStorm, f x.stationFull, f x.meterSpent,
    f x.claimExpired, f x.ruleHit⟩

/-- The value of one counter (R130). -/
def Counters.get (k : Counters) : Counter → Count
  | .rxGood => k.rxGood | .rxCrc => k.rxCrc | .rxMalformed => k.rxMalformed | .rxAbort => k.rxAbort
  | .rxQuota => k.rxQuota | .rxNoSlot => k.rxNoSlot | .rxOwn => k.rxOwn
  | .rxSyncMisplaced => k.rxSyncMisplaced | .rxGuard => k.rxGuard | .rxMgmtRefused => k.rxMgmtRefused
  | .rxListen => k.rxListen | .rxExpired => k.rxExpired | .rxRuleDrop => k.rxRuleDrop | .rxLocal => k.rxLocal
  | .rxUnreach => k.rxUnreach | .rxMeterDrop => k.rxMeterDrop | .txGood => k.txGood | .txQFull => k.txQFull
  | .txStale => k.txStale | .txAbort => k.txAbort

/-- One counter incremented by one, wrapping (R130). -/
def Counters.bump (k : Counters) : Counter → Counters
  | .rxGood => { k with rxGood := k.rxGood + 1 }
  | .rxCrc => { k with rxCrc := k.rxCrc + 1 }
  | .rxMalformed => { k with rxMalformed := k.rxMalformed + 1 }
  | .rxAbort => { k with rxAbort := k.rxAbort + 1 }
  | .rxQuota => { k with rxQuota := k.rxQuota + 1 }
  | .rxNoSlot => { k with rxNoSlot := k.rxNoSlot + 1 }
  | .rxOwn => { k with rxOwn := k.rxOwn + 1 }
  | .rxSyncMisplaced => { k with rxSyncMisplaced := k.rxSyncMisplaced + 1 }
  | .rxGuard => { k with rxGuard := k.rxGuard + 1 }
  | .rxMgmtRefused => { k with rxMgmtRefused := k.rxMgmtRefused + 1 }
  | .rxListen => { k with rxListen := k.rxListen + 1 }
  | .rxExpired => { k with rxExpired := k.rxExpired + 1 }
  | .rxRuleDrop => { k with rxRuleDrop := k.rxRuleDrop + 1 }
  | .rxLocal => { k with rxLocal := k.rxLocal + 1 }
  | .rxUnreach => { k with rxUnreach := k.rxUnreach + 1 }
  | .rxMeterDrop => { k with rxMeterDrop := k.rxMeterDrop + 1 }
  | .txGood => { k with txGood := k.txGood + 1 }
  | .txQFull => { k with txQFull := k.txQFull + 1 }
  | .txStale => { k with txStale := k.txStale + 1 }
  | .txAbort => { k with txAbort := k.txAbort + 1 }

/-- The next value of a count that saturates at `top`. -/
def satNext (top n : Nat) : Nat := if n < top then n + 1 else top

/-- Port unit `p`. -/
def State.port (s : State) (p : Port) : PortUnit := s.ports.get p

/-- `s` with port unit `p` replaced. -/
def State.setPort (s : State) (p : Port) (u : PortUnit) : State := { s with ports := s.ports.set p u }

/-- `s` with the egress of port `p` replaced. -/
def State.setEgress (s : State) (p : Port) (e : Egress) : State := s.setPort p { s.port p with egress := e }

/-- One counter of port `p` counts (R130). -/
def State.count (s : State) (p : Port) (c : Counter) : State :=
  s.setPort p { s.port p with counters := (s.port p).counters.bump c }

/-- The port is ACTIVE. -/
def State.isActive (s : State) (p : Port) : Bool := decide ((s.port p).state = .active)

/-- The port is in service: ACTIVE or LISTEN (R120). -/
def State.inService (s : State) (p : Port) : Bool :=
  decide ((s.port p).state = .active) || decide ((s.port p).state = .listen)

/-- What slot `n` holds; none when it is free. -/
def State.slot (s : State) (n : Nat) : Option Slot := lookup n s.store.slots

/-- `s` with the list of held slots replaced. -/
def State.setSlots (s : State) (slots : List (Nat × Slot)) : State :=
  { s with store := { s.store with slots := slots } }

/-- The number of free slots (R89). -/
def State.freeSlots (s : State) : Nat := Config.slotCount - s.store.slots.length

/-- The free slot with the lowest number (R92, R94). -/
def State.lowestFreeSlot (s : State) : Option Nat := lowestFree Config.slotCount 0 s.store.slots

/-- Source `r` of the Notice Unit. -/
def State.source (s : State) (r : Source) : NoticeSource := s.notices.sources.get r

/-- `s` with source `r` replaced. -/
def State.setSource (s : State) (r : Source) (x : NoticeSource) : State :=
  { s with notices := { s.notices with sources := s.notices.sources.set r x } }

/-- S of a source: a notice of it is in service (Chapter 9). -/
def NoticeSource.inService (x : NoticeSource) : Bool := x.record.isSome

/-- Meter `n`; a meter in the zero configuration for a number that names none. -/
def State.meter (s : State) (n : Nat) : Meter := s.meters.meters.getD n .zero

/-- `s` with meter `n` replaced. -/
def State.setMeter (s : State) (n : Nat) (m : Meter) : State :=
  { s with meters := { s.meters with meters := s.meters.meters.set n m } }

/-- A bank by name. -/
def RuleList.bank (r : RuleList) : BankName → Bank
  | .a => r.bankA
  | .b => r.bankB

/-- `r` with one bank replaced. -/
def RuleList.setBank (r : RuleList) (n : BankName) (k : Bank) : RuleList :=
  match n with
  | .a => { r with bankA := k }
  | .b => { r with bankB := k }

/-- The bank that is not `n`. -/
def otherBank : BankName → BankName
  | .a => .b
  | .b => .a

/-- The standby bank's name (R2). -/
def RuleList.standby (r : RuleList) : BankName := otherBank r.working

/-- The class queue `c` of an egress. -/
def Egress.queue (e : Egress) (c : BitVec 2) : List Nat :=
  if c = 3 then e.q3 else if c = 2 then e.q2 else if c = 1 then e.q1 else e.q0

/-- `e` with class queue `c` replaced. -/
def Egress.setQueue (e : Egress) (c : BitVec 2) (q : List Nat) : Egress :=
  if c = 3 then { e with q3 := q } else if c = 2 then { e with q2 := q }
  else if c = 1 then { e with q1 := q } else { e with q0 := q }

/-- How many entries an egress queues. -/
def Egress.queued (e : Egress) : Nat := e.q3.length + e.q2.length + e.q1.length + e.q0.length

/-! ## Occurrences (R185) -/

/-- A source after an occurrence with `detail`: P set, the count up by one (saturating at 255), the detail
replaced, nothing else touched. -/
def NoticeSource.occur (x : NoticeSource) (detail : Word) : NoticeSource :=
  { x with pending := true, occurrences := satNext 255 x.occurrences, detail := detail }

/-- An occurrence on source `r` (R185). A service event of the Notice Unit is then due (R187). -/
def State.raise (s : State) (r : Source) (detail : Word) : State :=
  { s with notices :=
      { s.notices with sources := s.notices.sources.set r ((s.source r).occur detail), causeDue := true } }

/-! ## Slots and references (R91 to R96) -/

/-- A slot is written: content, arrival attribute, acceptance time now, and a reference count (R90). -/
def State.fillSlot (s : State) (n : Nat) (f : Frame) (o : Origin) (refs : Nat) : State :=
  s.setSlots (put n ⟨f, o, s.store.clock, refs⟩ s.store.slots)

/-- A holder takes slot `n`: its reference count rises by one (R91). -/
def State.addRef (s : State) (n : Nat) : State :=
  match s.slot n with
  | none => s
  | some x => s.setSlots (put n { x with refs := x.refs + 1 } s.store.slots)

/-- The held count of an arrival attribute falls by one (R93); AGENT slots are counted against no port. -/
def lowerHeld (held : PerPort Nat) : Origin → PerPort Nat
  | .agent => held
  | .port p => held.set p (held.get p - 1)

/-- A holder gives slot `n` up (R96). At count 0 the slot becomes free in this event, the held count of its
arrival port falls, and the slot is offered to the Notice Unit. -/
def State.releaseRef (s : State) (n : Nat) : State :=
  match s.slot n with
  | none => s
  | some x =>
    if x.refs ≤ 1 then
      { s with
        store := { s.store with slots := remove n s.store.slots, held := lowerHeld s.store.held x.origin }
        notices := { s.notices with offerDue := true } }
    else s.setSlots (put n { x with refs := x.refs - 1 } s.store.slots)

/-- The end of the RESTART FULL reply's stay is reported, if slot `n` is the marked one (R111). -/
def State.reportEnd (s : State) (n : Nat) : State :=
  if s.device.restartMark = some n then
    { s with device := { s.device with restartMark := none, restartDue := true } }
  else s

/-! ## Selection (R99 to R106) -/

/-- The share of class `c` of an egress (classes 2, 1 and 0). -/
def Egress.share (e : Egress) (c : BitVec 2) : Nat :=
  if c = 2 then e.share2 else if c = 1 then e.share1 else e.share0

/-- The remaining share of class `c` in a round. -/
def Round.left (r : Round) (c : BitVec 2) : Nat :=
  if c = 2 then r.left2 else if c = 1 then r.left1 else r.left0

/-- `r` with the remaining share of class `c` replaced. -/
def Round.setLeft (r : Round) (c : BitVec 2) (n : Nat) : Round :=
  if c = 2 then { r with left2 := n } else if c = 1 then { r with left1 := n } else { r with left0 := n }

/-- A new round: its members are the classes 2, 1 and 0 that wait, each with its full share (R101). -/
def Egress.openRound (e : Egress) : Round :=
  ⟨if e.q2.isEmpty then 0 else e.share2, if e.q1.isEmpty then 0 else e.share1, if e.q0.isEmpty then 0 else e.share0⟩

/-- The round that a selection serves: the open one, or a new one (R101, R102). -/
def Egress.servedRound (e : Egress) : Round := if e.round = .closed then e.openRound else e.round

/-- The highest class that is a member of a round (R102). -/
def Round.highest (r : Round) : Option (BitVec 2) :=
  if r.left2 ≠ 0 then some 2 else if r.left1 ≠ 0 then some 1 else if r.left0 ≠ 0 then some 0 else none

/-- The head a selection takes: its class, its slot, and the egress with the round of the selection opened. None
when class queue 3 is empty and no class of the round waits. -/
def Egress.head (e : Egress) : Option (BitVec 2 × Nat × Egress) :=
  match e.q3 with
  | n :: _ => some (3, n, e)
  | [] =>
    let e' := { e with round := e.servedRound }
    match e'.round.highest with
    | none => none
    | some c =>
      match e'.queue c with
      | [] => none
      | n :: _ => some (c, n, e')

/-- The head of class `c` leaves its queue. A class 3 head leaves the round as it is (R100). A member gives one of
its share for a head that is sent, and leaves the round when its share is 0 or its queue empty (R102, R104). -/
def Egress.takeHead (e : Egress) (c : BitVec 2) (sent : Bool) : Egress :=
  let rest := (e.queue c).drop 1
  let e' := e.setQueue c rest
  if c = 3 then e'
  else
    let share := if sent then e.round.left c - 1 else e.round.left c
    { e' with round := e.round.setLeft c (if rest.isEmpty then 0 else share) }

/-- The slot's frame is older than the residency limit of the port (R104). -/
def State.isStale (s : State) (p : Port) (n : Nat) : Bool :=
  let limit := (s.port p).egress.residency
  match s.slot n with
  | none => false
  | some x => decide (limit ≠ 0) && decide (limit < s.store.clock - x.accepted)

/-- A stale head is discarded: it leaves its queue, TX_STALE counts, its reference is released (R104, R111). -/
def State.discardStale (s : State) (p : Port) (c : BitVec 2) (n : Nat) (e : Egress) : State :=
  (((s.setEgress p (e.takeHead c false)).count p .txStale).reportEnd n).releaseRef n

/-- A transmission starts with the head: the reference passes to the transmitter (R106). -/
def State.startTransmission (s : State) (p : Port) (c : BitVec 2) (n : Nat) (e : Egress) : State :=
  s.setEgress p { e.takeHead c true with transmitter := some n, line := .startMark }

/-- A selection: it discards stale heads until it starts a transmission or finds no head (R99 to R104). Each turn
but the last removes an entry, so the fuel is the number of entries and one. -/
def State.selectLoop : Nat → State → Port → State
  | 0, s, _ => s
  | fuel + 1, s, p =>
    match (s.port p).egress.head with
    | none => s
    | some (c, n, e) =>
      if s.isStale p n then selectLoop fuel (s.discardStale p c n e) p
      else s.startTransmission p c n e

/-- The selection of R99: taken when the transmitter is IDLE and the port is in service. -/
def State.select (s : State) (p : Port) : State :=
  if s.inService p ∧ (s.port p).egress.transmitter = none then
    s.selectLoop ((s.port p).egress.queued + 1) p
  else s

/-! ## Placement (R98) -/

/-- The class queue holds 32 entries. -/
def State.queueFull (s : State) (p : Port) (c : BitVec 2) : Bool :=
  decide (Config.queueDepth ≤ ((s.port p).egress.queue c).length)

/-- A reference to slot `n` joins the tail of class queue `c` of port `p`, and selection follows if the
transmitter is IDLE (R98). -/
def State.enqueue (s : State) (p : Port) (c : BitVec 2) (n : Nat) : State :=
  let e := (s.port p).egress
  ((s.setEgress p (e.setQueue c (e.queue c ++ [n]))).addRef n).select p

/-- A placement is offered: a full queue counts TX_QFULL and changes nothing else (R98). -/
def State.place (s : State) (p : Port) (c : BitVec 2) (n : Nat) : State :=
  if s.queueFull p c then s.count p .txQFull else s.enqueue p c n

/-- What became of a frame that the part built itself (R94, R148, R190). -/
inductive Placed where
  /-- it stands in class queue 3, in this slot -/
  | placed (n : Nat)
  /-- no slot was free -/
  | noSlot
  /-- the port was DISABLED or BLOCKED -/
  | notOffered
  /-- class queue 3 held 32 entries -/
  | queueFull
deriving DecidableEq, Repr

/-- A frame built by the Agent or the Notice Unit claims an AGENT slot and is offered to class queue 3 of a port
that is ACTIVE or LISTEN (R94, R98). A slot whose frame is not placed is free again within the event. -/
def State.placeOwn (s : State) (p : Port) (f : Frame) : Placed × State :=
  match s.lowestFreeSlot with
  | none => (.noSlot, s)
  | some n =>
    if s.inService p then
      if s.queueFull p 3 then (.queueFull, s.count p .txQFull)
      else (.placed n, (s.fillSlot n f .agent 0).enqueue p 3 n)
    else (.notOffered, s)

/-! ## The end of service of an egress (R108, R109, R110) -/

/-- A transmission in progress is aborted: an abort mark, TX_ABORT, the reference released, IDLE (R108). -/
def State.abortTransmission (s : State) (p : Port) : State :=
  let e := (s.port p).egress
  match e.transmitter with
  | none => s
  | some n =>
    (((s.setEgress p { e with transmitter := none, line := .abortMark }).count p .txAbort).reportEnd n).releaseRef n

/-- Each flushed entry's reference is released; a marked reply's removal is reported (R109, R111). -/
def State.releaseAll : List Nat → State → State
  | [], s => s
  | n :: rest, s => releaseAll rest ((s.reportEnd n).releaseRef n)

/-- The transmission is aborted, the four class queues are emptied, the round becomes none (R109). -/
def State.stopEgress (s : State) (p : Port) : State :=
  let s1 := s.abortTransmission p
  let e := (s1.port p).egress
  State.releaseAll (e.q3 ++ e.q2 ++ e.q1 ++ e.q0)
    (s1.setEgress p { e with q3 := [], q2 := [], q1 := [], q0 := [], round := .closed })

/-! ## The gate and the trunk sync lock (R79, R80, R133) -/

/-- What a gate change does to one meter (R79). -/
def Meter.onGate (isOpen : Bool) (m : Meter) : Meter :=
  if m.mode = .gated then { m with timer := if isOpen then some m.period else none } else m

/-- The T unit hands the Meter bank the gate state; a change starts or stops the GATED meters' periods (R80). -/
def State.setGate (s : State) (isOpen : Bool) : State :=
  if s.meters.gateOpen = isOpen then s
  else { s with meters := ⟨s.meters.meters.map (Meter.onGate isOpen), isOpen⟩ }

/-- The lock becomes UNLOCKED from LOCKED: the timer stops, SYNC_LOST is raised, the gate closes (R132, R133). -/
def State.loseSync (s : State) (detail : Word) : State :=
  (({ s with sync := { s.sync with locked := false, timer := none } }).raise .syncLost detail).setGate false

/-- T's port state leaves ACTIVE (R133). -/
def State.trunkLeavesActive (s : State) : State :=
  if s.sync.locked then s.loseSync 1 else { s with sync := { s.sync with timer := none } }

/-! ## The request take (R144) -/

/-- The head of the request queue moves into an empty execution position while the device is RUNNING. -/
def State.takeRequest (s : State) : State :=
  if s.agent.executing = none ∧ s.device.state = .running then
    match s.agent.queue with
    | [] => s
    | r :: rest => { s with agent := { s.agent with queue := rest, executing := some r } }
  else s

end Sys2Proof.Machine
end

