-- ==== Sys2Proof/Machine/Flags.lean ====
section
/-! DEFINITION. The part's flags as the sets and bits that a manager reads: the enable, pending and in-service
sets of the Notice Unit by rank (R161, R189, R209), eligibility and candidates (R186), and the copy state and
claim fields of READ_STATUS. -/

namespace Sys2Proof.Machine

/-- A set of sources as a byte: bit n for the source of rank n (R209). -/
def sourceSet (s : State) (flag : NoticeSource → Bool) : Byte :=
  BitVec.ofBool (flag (s.source .ruleHit)) ++ BitVec.ofBool (flag (s.source .claimExpired))
    ++ BitVec.ofBool (flag (s.source .meterSpent)) ++ BitVec.ofBool (flag (s.source .stationFull))
    ++ BitVec.ofBool (flag (s.source .moveStorm)) ++ BitVec.ofBool (flag (s.source .syncLost))
    ++ BitVec.ofBool (flag (s.source .portBlocked)) ++ BitVec.ofBool (flag (s.source .storeExhausted))

/-- The sources with E set. -/
def enableSet (s : State) : Byte := sourceSet s NoticeSource.enabled

/-- The sources with P set. -/
def pendingSet (s : State) : Byte := sourceSet s NoticeSource.pending

/-- The sources with S set. -/
def inServiceSet (s : State) : Byte := sourceSet s NoticeSource.inService

/-- Some source of a smaller rank number than `r` has S set (R186). -/
def heldBack (s : State) (r : Source) : Bool :=
  allSources.any (fun q => decide (sourceRank q < sourceRank r) && (s.source q).inService)

/-- A source is eligible for a first send (R186). -/
def eligible (s : State) (r : Source) : Bool :=
  decide (s.notices.target ≠ 0) && (s.source r).enabled && (s.source r).pending && !(s.source r).inService
    && !heldBack s r

/-- The Notice Unit holds a candidate: an eligible source, or a resend that is due (R186). -/
def anyCandidate (s : State) : Bool :=
  allSources.any (fun r => eligible s r || (s.source r).resendDue)

/-- The holder of the edit claim, 0000h for none (R161). -/
def claimHolder (s : State) : Word :=
  match s.agent.claim with
  | none => 0
  | some c => c.holder

/-- The whole seconds left on the claim timer, rounded up; 0 with no holder (R152, R161). -/
def claimSeconds (s : State) : Nat :=
  match s.agent.claim with
  | none => 0
  | some c => secondsUp c.remaining

/-- The station holds the edit claim (R153). -/
def holdsClaim (s : State) (station : Word) : Bool :=
  match s.agent.claim with
  | none => false
  | some c => decide (c.holder = station)

end Sys2Proof.Machine
end

