-- ==== Sys2Proof/Machine/Operands.lean ====
section
/-! DEFINITION. How an execution event finds its request and the request's operands: the request head, the form
check, the arguments, and which of the 25 commands, in which form, a request is (R145, R153, R158, R212). -/

namespace Sys2Proof.Machine

/-! ## The request head (R212) -/

/-- The request id of a request's payload. -/
def requestId (payload : List Byte) : Word := wordAt payload 0

/-- The command code of a request's payload. -/
def commandCode (payload : List Byte) : Byte := byteAt payload 2

/-- The flags byte of a request's payload. -/
def flagsByte (payload : List Byte) : Byte := byteAt payload 3

/-- The clear flag: bit 0 of the flags byte. -/
def clearFlag (payload : List Byte) : Bool := (flagsByte payload).getLsbD 0

/-- The arguments: what follows the 4-byte head. -/
def arguments (payload : List Byte) : List Byte := payload.drop 4

/-- The form check: flag bits 7 to 1 clear, and `n` bytes of arguments present (R158, R212). -/
def formOk (payload : List Byte) (n : Nat) : Bool :=
  decide ((flagsByte payload).extractLsb' 1 7 = 0) && decide (4 + n ≤ payload.length)

/-- The number at byte `i` of the arguments. -/
def argByte (payload : List Byte) (i : Nat) : Nat := (byteAt (arguments payload) i).toNat

/-- The 16-bit field at byte `i` of the arguments. -/
def argWord (payload : List Byte) (i : Nat) : Word := wordAt (arguments payload) i

/-- A 16-bit number at byte `i` of the arguments. -/
def argHalf (payload : List Byte) (i : Nat) : Nat := (argWord payload i).toNat

/-! ## Which event executes a request -/

/-- The request carries this command code. -/
def isCommand (code : Byte) (payload : List Byte) : Bool := decide (commandCode payload = code)

/-- READ_PORT or READ_METER with the clear flag clear, or set (R166, R167, R85). -/
def isRead (code : Byte) (clear : Bool) (payload : List Byte) : Bool :=
  isCommand code payload && decide (clearFlag payload = clear)

/-- READ_STATION or RESTART in the form its first argument byte names. A request whose form byte is absent or
names neither form is refused alike under either name, so both accept it (R174, R182; log entry 6). -/
def isForm (code : Byte) (other : Byte) (payload : List Byte) : Bool :=
  isCommand code payload && !(decide (5 ≤ payload.length) && decide (byteAt payload 4 = other))

/-- The request names none of the 25 commands (R145). -/
def isUnknown (payload : List Byte) : Bool := !knownCommand (commandCode payload)

/-! ## Answers -/

/-- The outcome of steps 1 to 3 of R145: the status, the results, and the part after the command. -/
structure Answer where
  status : Status
  results : List Byte
  state : State

/-- A refusal without results: nothing changes (R154, R158). -/
def refuse (st : Status) (s : State) : Answer := ⟨st, [], s⟩

/-- The request in the execution position and its frame, when an execution can be taken: RESET_N is not low, the
device is RUNNING, and the execution position holds a request (R142, R144, R200). -/
def State.executable (s : State) : Option (Request × Frame) :=
  if s.device.resetHeld = false ∧ s.device.state = .running then
    match s.agent.executing with
    | none => none
    | some r =>
      match s.slot r.slot with
      | none => none
      | some x => some (r, x.frame)
  else none

/-- A command's own checks begin with the form of the request (R158). -/
def withForm (payload : List Byte) (n : Nat) (s : State) (a : Answer) : Answer :=
  if formOk payload n then a else refuse .badArg s

/-- A command that needs the edit claim is refused NOT_HOLDER to every other station, before its own checks (R153). -/
def withClaim (r : Request) (s : State) (a : Answer) : Answer :=
  if holdsClaim s r.source then a else refuse .notHolder s

end Sys2Proof.Machine
end

