-- ==== Sys2Proof/Machine/Execution.lean ====
section
/-! DEFINITION. The execution event that all 25 commands share (R145): the command is judged and takes its effect,
the holder's claim timer restarts, the reply is built, placed and cached, the request's slot is released, and the
next request is taken. -/

namespace Sys2Proof.Machine

/-- Step 4 of R145: a request from the holder restarts the claim timer for the claim's duration (R151). -/
def restartClaimTimer (station : Word) (s : State) : State :=
  match s.agent.claim with
  | none => s
  | some c =>
    if c.holder = station then
      { s with agent := { s.agent with claim := some { c with remaining := c.duration * 1000 } } }
    else s

/-- A frame the part builds: untagged, class 3, hop count 15, its check computed (R147, R189, R210). -/
def ownFrame (dest src : Word) (kind : Kind) (seq : Byte) (payload : List Byte) : Frame :=
  Frame.recheck ⟨dest, src, kind, 3, none, 15, seq, payload, 0⟩

/-- The reply head and the results (R147, R212). -/
def replyPayload (r : Request) (f : Frame) (a : Answer) : List Byte :=
  wordBytes r.id ++ [commandCode f.payload, statusCode a.status] ++ wordBytes a.state.rules.generation ++ a.results

/-- The reply to request `r`, whose frame is `f` (R147). The generation and the station address are those after the
command. -/
def buildReply (r : Request) (f : Frame) (a : Answer) : Frame :=
  ownFrame r.source a.state.agent.address .reply f.seq (replyPayload r f a)

/-- A reply that was not placed counts REPLY_LOST (R148). -/
def countReplyLost (pl : Placed) (s : State) : State :=
  match pl with
  | .placed _ => s
  | _ => { s with agent := { s.agent with replyLost := s.agent.replyLost + 1 } }

/-- The reply enters the cache; the oldest of nine entries leaves (R149). -/
def cacheReply (r : Request) (reply : Frame) (s : State) : State :=
  let cache := s.agent.cache ++ [⟨r.source, r.id, reply⟩]
  { s with agent := { s.agent with cache := cache.drop (cache.length - Config.cacheDepth) } }

/-- Device control marks the RESTART FULL reply's slot, or has its end reported when it was not placed (R111, R204). -/
def markRestartReply (pl : Placed) (s : State) : State :=
  match pl with
  | .placed n => { s with device := { s.device with restartMark := some n } }
  | _ => { s with device := { s.device with restartDue := true } }

/-- Step 6 of R145: the request's reference is released, the execution position becomes empty, and the next head is
taken. -/
def endExecution (r : Request) (s : State) : State :=
  let s1 := s.releaseRef r.slot
  ({ s1 with agent := { s1.agent with executing := none } }).takeRequest

/-- Steps 4 to 6 of R145 after the answer `a`; `restart` for a RESTART FULL that was carried out. -/
def completeRequest (r : Request) (f : Frame) (restart : Bool) (a : Answer) : State :=
  let reply := buildReply r f a
  let out := (restartClaimTimer r.source a.state).placeOwn r.port reply
  let s1 := countReplyLost out.1 out.2
  let s2 := if restart then markRestartReply out.1 s1 else s1
  endExecution r (cacheReply r reply s2)

/-- The execution event of one command: `mine` says that the request in the execution position is one of this
event's, `judge` takes steps 1 to 3 of R145. Where no such request stands there, the event does not occur and
nothing changes (log entry 3). -/
def runRequest (mine : List Byte → Bool) (judge : Request → List Byte → State → Answer) (s : State) : State :=
  match s.executable with
  | none => s
  | some (r, f) => if mine f.payload then completeRequest r f false (judge r f.payload s) else s

end Sys2Proof.Machine
end

