-- ==== Sys2Proof/Machine/Agent.lean ====
section
/-! DEFINITION. The Management Agent (07_the_management_agent.md): capture, the reply cache's resend, the edit claim,
identity, status and the station address. -/

namespace Sys2Proof.Machine

/-! ## Capture (7.2) -/

/-- The cached reply of a key (R140). -/
def Agent.cached (a : Agent) (source id : Word) : Option Frame :=
  (a.cache.find? (fun e => decide (e.source = source) && decide (e.id = id))).map CacheEntry.reply

/-- The request has this key. -/
def Request.hasKey (source id : Word) (r : Request) : Bool := decide (r.source = source) && decide (r.id = id)

/-- The executing request or a queued one has this key (R140). -/
def Agent.duplicate (a : Agent) (source id : Word) : Bool :=
  (match a.executing with
    | none => false
    | some r => r.hasKey source id) || a.queue.any (Request.hasKey source id)

/-- A cached reply is sent again in a fresh slot; when it cannot be placed, REPLY_LOST counts (R141). -/
def State.resend (s : State) (p : Port) (reply : Frame) : State :=
  let out := s.placeOwn p reply
  countReplyLost out.1 out.2

/-- A request joins the queue, its slot gains a holder, and it is taken at once when it can be (R140, R144). -/
def State.capture (s : State) (r : Request) : State :=
  (({ s with agent := { s.agent with queue := s.agent.queue ++ [r] } }).addRef r.slot).takeRequest

/-- The checks of R140 on an offered frame: cache hit, duplicate, queue full, taken. -/
def State.offerKeyed (s : State) (p : Port) (slot : Nat) (f : Frame) : State :=
  let id := requestId f.payload
  match s.agent.cached f.src id with
  | some reply => s.resend p reply
  | none =>
    if s.agent.duplicate f.src id then
      { s with agent := { s.agent with reqDuplicate := s.agent.reqDuplicate + 1 } }
    else if Config.requestDepth ≤ s.agent.queue.length then
      { s with agent := { s.agent with reqDropped := s.agent.reqDropped + 1 } }
    else s.capture ⟨f.src, id, p, slot⟩

/-- A MGMT frame addressed to the part is offered (R139). Its device test is met: step 0 has found the device
RUNNING (R29, R139). -/
def State.offerDirect (s : State) (p : Port) (slot : Nat) (f : Frame) : State :=
  if f.payload.length < 4 then { s with agent := { s.agent with reqMalformed := s.agent.reqMalformed + 1 } }
  else s.offerKeyed p slot f

/-- A MGMT frame to broadcast is offered: only an IDENTIFY is taken further (R35, R139). -/
def State.offerBroadcast (s : State) (p : Port) (slot : Nat) (f : Frame) : State :=
  if 4 ≤ f.payload.length ∧ isCommand 0x01 f.payload then s.offerKeyed p slot f else s

/-! ## Commands (8.2, 8.3) -/

/-- IDENTIFY (R160). -/
def identifyCommand (_ : Request) (payload : List Byte) (s : State) : Answer :=
  withForm payload 0 s <|
    ⟨.ok, [Config.vendorCode] ++ wordBytes Config.partCode ++ [Config.revision] ++ wordBytes s.agent.address
      ++ byte s.agent.restartCount, s⟩

/-- The status record in the layout of R161 and R214, which has no field for the station address. R137 says that READ_STATUS
returns the address: the model gives it as the reply's source alone (`buildReply`). DESIGN CHOICE, log entry 25. -/
def statusRecord (s : State) : List Byte :=
  byte (deviceStateCode s.device.state) ++ byte (bankCode s.rules.working) ++ byte (bit s.rules.copying)
    ++ wordBytes (claimHolder s) ++ byte (claimSeconds s) ++ byte (bit s.sync.locked) ++ byte s.sync.timeout
    ++ wordBytes s.notices.target ++ byte (portNumber s.notices.port) ++ byte s.notices.interval
    ++ [enableSet s, pendingSet s, inServiceSet s] ++ byte s.agent.queue.length ++ half s.freeSlots
    ++ countBytes s.agent.startupDiscards ++ countBytes s.agent.reqMalformed ++ countBytes s.agent.reqDuplicate
    ++ countBytes s.agent.reqDropped ++ countBytes s.agent.replyLost
    ++ countBytes s.notices.lost ++ countBytes s.notices.deferred

/-- READ_STATUS (R161): it changes nothing. -/
def readStatusCommand (_ : Request) (payload : List Byte) (s : State) : Answer :=
  withForm payload 0 s ⟨.ok, statusRecord s, s⟩

/-- `s` with the edit claim replaced. -/
def State.setClaim (s : State) (c : Option Claim) : State := { s with agent := { s.agent with claim := c } }

/-- CLAIM (R150, R162): the duration is judged before the holder. -/
def claimCommand (r : Request) (payload : List Byte) (s : State) : Answer :=
  let d := argByte payload 0
  let granted : Answer := ⟨.ok, wordBytes r.source ++ byte d, s.setClaim (some ⟨r.source, d, d * 1000⟩)⟩
  withForm payload 1 s <|
    if d = 0 then refuse .badArg s
    else
      match s.agent.claim with
      | none => granted
      | some c =>
        if c.holder = r.source then granted
        else ⟨.held, wordBytes c.holder ++ byte (secondsUp c.remaining), s⟩

/-- RELEASE (R151, R162). The form check comes first of the command's own checks (R158). -/
def releaseCommand (r : Request) (payload : List Byte) (s : State) : Answer :=
  withForm payload 0 s <|
    if holdsClaim s r.source then ⟨.ok, [], s.setClaim none⟩ else refuse .notHolder s

/-- SET_ADDRESS (R163). -/
def setAddressCommand (r : Request) (payload : List Byte) (s : State) : Answer :=
  let a := argWord payload 0
  withClaim r s <| withForm payload 2 s <|
    if isStation a then ⟨.ok, [], { s with agent := { s.agent with address := a } }⟩ else refuse .badArg s

/-- A request with a command code that is none of the 25 is answered UNKNOWN (R145 step 1). -/
def unknownCommand (_ : Request) (_ : List Byte) (s : State) : Answer := refuse .unknown s

/-! ## Resets (7.10) -/

/-- The Agent at the start of a reset; the restart count is the reset's own (R157). -/
def Agent.startReset (a : Agent) (restartCount : Nat) : Agent := .fresh a.address restartCount

/-! ## Events -/

/-- IDENTIFY is executed (R160). -/
def execIdentify (s : State) : Host.Outcome State Fault Refusal :=
  .next (runRequest (isCommand 0x01) identifyCommand s)

/-- READ_STATUS is executed (R161). -/
def execReadStatus (s : State) : Host.Outcome State Fault Refusal :=
  .next (runRequest (isCommand 0x02) readStatusCommand s)

/-- CLAIM is executed (R150). -/
def execClaim (s : State) : Host.Outcome State Fault Refusal :=
  .next (runRequest (isCommand 0x03) claimCommand s)

/-- RELEASE is executed (R151). -/
def execRelease (s : State) : Host.Outcome State Fault Refusal :=
  .next (runRequest (isCommand 0x04) releaseCommand s)

/-- SET_ADDRESS is executed (R163). -/
def execSetAddress (s : State) : Host.Outcome State Fault Refusal :=
  .next (runRequest (isCommand 0x05) setAddressCommand s)

/-- A request with an unknown command code is executed (R145). -/
def execUnknownCommand (s : State) : Host.Outcome State Fault Refusal :=
  .next (runRequest isUnknown unknownCommand s)

/-- CLAIM_EXPIRY (R152): the holder becomes none and CLAIM_EXPIRED is raised with its address; it occurs only while
there is a holder. -/
def execClaimExpiry (s : State) : Host.Outcome State Fault Refusal :=
  .next (if s.device.resetHeld = false then
      match s.agent.claim with
      | none => s
      | some c => (s.setClaim none).raise .claimExpired c.holder
    else s)

end Sys2Proof.Machine
end

