-- ==== Sys2Proof/Machine/Meters.lean ====
section
/-! DEFINITION. The Meter bank (04_meters.md): charging a frame, refills, triggers, and the meter commands. -/

namespace Sys2Proof.Machine

/-! ## Charging (4.2) -/

/-- The cost of a frame: 1 + floor(payload length / 16) (R47, R74). -/
def frameCost (f : Frame) : Nat := 1 + f.payload.length / 16

/-- The frame conforms: enough credit, and for a SINGLE meter ARMED (R74). -/
def Meter.conforms (m : Meter) (cost : Nat) : Bool :=
  decide (cost ≤ m.credit) && (decide (m.mode ≠ .single) || decide (m.arm = .armed))

/-- The meter after a frame that conforms (R74). -/
def Meter.charge (m : Meter) (cost : Nat) : Meter :=
  { m with credit := m.credit - cost, conform := m.conform + 1 }

/-- The meter after a frame that exceeds: counted, and a SINGLE meter is SPENT (R74, R75). -/
def Meter.overrun (m : Meter) : Meter :=
  { m with exceeded := m.exceeded + 1, arm := if m.mode = .single then .spent else m.arm }

/-- This overrun makes the meter SPENT, which raises METER_SPENT (R75). -/
def Meter.justSpent (m : Meter) : Bool := decide (m.mode = .single) && decide (m.arm = .armed)

/-- A meter's decision on a frame; none when no meter was consulted (R47). -/
inductive MeterDecision where
  | notConsulted | conforms | exceeds (a : ExceedAction)
deriving DecidableEq, Repr

/-- A consultation of meter `n` for a frame of this cost; an OFF meter is not consulted (R47, R74, R75, R82). -/
def State.consult (s : State) (n : Nat) (cost : Nat) : MeterDecision × State :=
  let m := s.meter n
  if m.mode = .off then (.notConsulted, s)
  else if m.conforms cost then (.conforms, s.setMeter n (m.charge cost))
  else
    let s1 := s.setMeter n m.overrun
    (.exceeds m.exceed, if m.justSpent then s1.raise .meterSpent (BitVec.ofNat 16 n) else s1)

/-! ## Refills and triggers (4.3) -/

/-- The credit after a refill (R73, R77). -/
def Meter.refilled (m : Meter) : Nat := min m.ceiling (m.credit + m.refill)

/-- A period expiry: refill and a full period (R77, R79). -/
def Meter.onExpiry (m : Meter) : Meter := { m with credit := m.refilled, timer := some m.period }

/-- What a trunk SYNC event does to a meter (R81). -/
def Meter.onSync (m : Meter) : Meter :=
  if m.trigger then
    match m.mode with
    | .off => m
    | .single => { m with credit := m.ceiling, arm := .armed }
    | .continuous => m.onExpiry
    | .gated => m.onExpiry
  else m

/-- The SYNC triggers are served (R81). -/
def State.serveTriggers (s : State) : State :=
  { s with meters := { s.meters with meters := s.meters.meters.map Meter.onSync } }

/-- A trunk SYNC event: LOCKED, the timer restarts, the gate opens, the triggers are served (R131). -/
def State.trunkSync (s : State) : State :=
  (({ s with sync := { s.sync with locked := true, timer := some s.sync.timeout } }).setGate true).serveTriggers

/-- The timer a configuration starts with (R83, R87). -/
def startTimer (mode : MeterMode) (period : Nat) (gateOpen : Bool) : Option Nat :=
  match mode with
  | .off => none
  | .single => none
  | .continuous => some period
  | .gated => if gateOpen then some period else none

/-! ## Commands (4.4) -/

/-- A meter number of a command: 0 to 31. -/
def meterOk (n : Nat) : Bool := decide (n < Config.meterCount)

/-- A value of a configuration that must be 1 to 65535 (R83); a 16-bit field is never above. -/
def positive (n : Nat) : Bool := decide (1 ≤ n)

/-- The meter a SET_METER makes; none where R83 refuses it BAD_ARG. -/
def configuredMeter (payload : List Byte) (gateOpen : Bool) : Option Meter :=
  let ceiling := argHalf payload 2
  let refill := argHalf payload 4
  let period := argHalf payload 6
  match meterModeOf (argByte payload 1) with
  | none => none
  | some .off => some .zero
  | some mode =>
    if positive ceiling && positive refill && positive period then
      match exceedOf (argByte payload 8), flagOf (argByte payload 9) with
      | some ex, some tr =>
        some ⟨mode, ceiling, refill, period, ex, tr, ceiling, .armed, startTimer mode period gateOpen, 0, 0⟩
      | _, _ => none
    else none

/-- SET_METER (R83, R176). -/
def setMeterCommand (r : Request) (payload : List Byte) (s : State) : Answer :=
  let n := argByte payload 0
  withClaim r s <| withForm payload 10 s <|
    if meterOk n then
      match configuredMeter payload s.meters.gateOpen with
      | none => refuse .badArg s
      | some m => ⟨.ok, meterBytes n m s.meters.gateOpen, s.setMeter n m⟩
    else refuse .badArg s

/-- REARM_METER (R84, R177). -/
def rearmMeterCommand (r : Request) (payload : List Byte) (s : State) : Answer :=
  let n := argByte payload 0
  let m := s.meter n
  withClaim r s <| withForm payload 1 s <|
    if meterOk n && decide (m.mode = .single) then
      ⟨.ok, byte n ++ byte (armCode m.arm) ++ half m.credit, s.setMeter n { m with credit := m.ceiling, arm := .armed }⟩
    else refuse .badArg s

/-- READ_METER without the clear flag (R85, R177): it needs no claim and changes nothing. -/
def readMeterCommand (_ : Request) (payload : List Byte) (s : State) : Answer :=
  let n := argByte payload 0
  withForm payload 1 s <|
    if meterOk n then ⟨.ok, meterBytes n (s.meter n) s.meters.gateOpen, s⟩ else refuse .badArg s

/-- READ_METER with the clear flag (R85, R177): the counters become 0 after they are read. -/
def readMeterClearCommand (r : Request) (payload : List Byte) (s : State) : Answer :=
  let n := argByte payload 0
  let m := s.meter n
  withClaim r s <| withForm payload 1 s <|
    if meterOk n then
      ⟨.ok, meterBytes n m s.meters.gateOpen, s.setMeter n { m with conform := 0, exceeded := 0 }⟩
    else refuse .badArg s

/-! ## Resets (4.8) -/

/-- RESTART TRAFFIC at one meter (R87). -/
def Meter.restartTraffic (gateOpen : Bool) (m : Meter) : Meter :=
  { m with
    credit := m.ceiling, arm := .armed, conform := 0, exceeded := 0
    timer := startTimer m.mode m.period gateOpen }

/-- A meter at the start of a reset: OFF, its timer stopped (R88); the rest waits for the sweep. -/
def Meter.startReset (m : Meter) : Meter := { m with mode := .off, timer := none }

/-- The Meter bank at the start of a reset (R88). -/
def MeterBank.startReset (b : MeterBank) : MeterBank := ⟨b.meters.map Meter.startReset, false⟩

/-! ## Events -/

/-- SET_METER is executed (R83). -/
def execSetMeter (s : State) : Host.Outcome State Fault Refusal :=
  .next (runRequest (isCommand 0x19) setMeterCommand s)

/-- REARM_METER is executed (R84). -/
def execRearmMeter (s : State) : Host.Outcome State Fault Refusal :=
  .next (runRequest (isCommand 0x13) rearmMeterCommand s)

/-- READ_METER without the clear flag is executed (R85). -/
def execReadMeter (s : State) : Host.Outcome State Fault Refusal :=
  .next (runRequest (isRead 0x14 false) readMeterCommand s)

/-- READ_METER with the clear flag is executed (R85). -/
def execReadMeterClear (s : State) : Host.Outcome State Fault Refusal :=
  .next (runRequest (isRead 0x14 true) readMeterClearCommand s)

/-- PERIOD_EXPIRY (R77, R79): a meter whose period timer runs refills and starts a full period. A number above 31
names no meter (R72). -/
def execPeriodExpiry (n : Nat) (s : State) : Host.Outcome State Fault Refusal :=
  if meterOk n then
    .next (if s.device.resetHeld = false ∧ (s.meter n).timer.isSome then s.setMeter n (s.meter n).onExpiry else s)
  else .fault .noSuchMeter

end Sys2Proof.Machine
end

