-- ==== Sys2Proof/Machine/RuleList.lean ====
section
/-! DEFINITION. The Rule List (01_the_rule_list.md): evaluation, and the commands that store, clear, read, copy and
switch banks. -/

namespace Sys2Proof.Machine

/-! ## Evaluation (1.2, 1.3) -/

/-- The field a selector reads, widened to 16 bits; none where R7 lets no term hold: a TAG of an untagged frame, a
PAYLOAD pair that the payload does not hold whole (R6, R7). -/
def fieldOf (f : Frame) (t : Term) : Option Word :=
  match t.selector with
  | .dest => some f.dest
  | .source => some f.src
  | .kind => some ((kindCode f.kind).setWidth 16)
  | .cls => some (f.cls.setWidth 16)
  | .hops => some (f.hops.setWidth 16)
  | .length => some (BitVec.ofNat 16 f.payload.length)
  | .seq => some (f.seq.setWidth 16)
  | .tag => f.tag.map (fun v => v.setWidth 16)
  | .payload =>
    if t.offset.toNat + 1 < f.payload.length then some (wordAt f.payload t.offset.toNat) else none

/-- The term holds for the frame (R5, R7). -/
def Term.holds (f : Frame) (t : Term) : Bool :=
  match fieldOf f t with
  | none => false
  | some x =>
    match t.sense with
    | .equal => decide (x &&& t.mask = t.value &&& t.mask)
    | .differ => decide (x &&& t.mask ≠ t.value &&& t.mask)

/-- The action of a rule that matches the frame; none when it does not match (R8). -/
def Rule.decides (f : Frame) (r : Rule) : Option Action :=
  match r.mode with
  | .all => if r.terms.all (Term.holds f) then r.actions[0]? else none
  | .any => if r.terms.any (Term.holds f) then r.actions[0]? else none
  | .firstOf =>
    match r.terms.findIdx? (Term.holds f) with
    | none => none
    | some k => r.actions[k]?

/-- The first position, of those listed, whose rule is considered for arrival port `p` and matches (R11). -/
def firstMatch (p : Port) (f : Frame) : List (Nat × Position) → Option (Nat × Action)
  | [] => none
  | (n, x) :: rest =>
    if inPortSet p x.rule.arrival then
      match x.rule.decides f with
      | some a => some (n, a)
      | none => firstMatch p f rest
    else firstMatch p f rest

/-- The action a default supplies (R12). -/
def defaultAction (v : DefaultVerdict) : Action :=
  ⟨match v with | .pass => .pass | .drop => .drop, .leave, false, false, false, false, 0, 0, 0, 0, 0⟩

/-- What evaluation returns to the Classifier (R13). -/
structure Decision where
  action : Action
  /-- the deciding position; none for "default" -/
  position : Option Nat
  observation : Option Port
deriving DecidableEq, Repr

/-- A hit counter counts, saturating at 4294967295 (R10). -/
def nextHit (c : Count) : Count := if c = 0xFFFFFFFF then c else c + 1

/-- The hit counter of a position counts (R10). -/
def Bank.hit (k : Bank) (n : Nat) : Bank :=
  match lookup n k.positions with
  | none => k
  | some x => { k with positions := put n { x with hits := nextHit x.hits } k.positions }

/-- Evaluation of a frame that arrived on `p` against the working bank (R11, R12, R13). -/
def evaluate (p : Port) (f : Frame) (s : State) : Decision :=
  let k := s.rules.bank s.rules.working
  match firstMatch p f k.positions with
  | some (n, a) => ⟨a, some n, k.header.observation⟩
  | none => ⟨defaultAction k.header.verdict, none, k.header.observation⟩

/-- The deciding position's hit counter increments; a default changes none (R10, R11, R12). -/
def countHit (d : Decision) (s : State) : State :=
  match d.position with
  | none => s
  | some n =>
    { s with rules := s.rules.setBank s.rules.working ((s.rules.bank s.rules.working).hit n) }

/-! ## Changing banks (1.5 to 1.7) -/

/-- `s` with its standby bank replaced (R2). -/
def State.setStandby (s : State) (k : Bank) : State :=
  { s with rules := s.rules.setBank s.rules.standby k }

/-- The standby bank. -/
def State.standbyBank (s : State) : Bank := s.rules.bank s.rules.standby

/-- A position of a bank named by a command: 0 to 127. -/
def positionOk (n : Nat) : Bool := decide (n < Config.positionCount)

/-- WRITE_RULE (R15, R16, R169): BUSY while COPYING, then BAD_ARG for the position or a must-be-zero bit, then
BAD_RULE, then the rule is stored with its counter 0. The form check calls for the position byte, the two bytes
of the record head, and what the record's counts call for. -/
def writeRuleCommand (r : Request) (payload : List Byte) (s : State) : Answer :=
  let record := (arguments payload).drop 1
  let n := argByte payload 0
  withClaim r s <|
    if formOk payload 3 && formOk payload (1 + recordLength record) then
      if s.rules.copying then refuse .busy s
      else if positionOk n && recordReservedClear record then
        match readRuleRecord record with
        | .error d => ⟨.badRule, byte d.code ++ byte d.index, s⟩
        | .ok rule =>
          ⟨.ok, byte (bankCode s.rules.standby) ++ byte n,
            s.setStandby { s.standbyBank with positions := put n ⟨rule, 0⟩ s.standbyBank.positions }⟩
      else refuse .badArg s
    else refuse .badArg s

/-- CLEAR_RULE (R18, R170): one position, or FFh for all; the reply gives how many held a rule. -/
def clearRuleCommand (r : Request) (payload : List Byte) (s : State) : Answer :=
  let n := argByte payload 0
  let k := s.standbyBank
  withClaim r s <| withForm payload 1 s <|
    if s.rules.copying then refuse .busy s
    else if n = 0xFF then
      ⟨.ok, byte (bankCode s.rules.standby) ++ byte k.positions.length, s.setStandby { k with positions := [] }⟩
    else if positionOk n then
      ⟨.ok, byte (bankCode s.rules.standby) ++ byte (bit (lookup n k.positions).isSome),
        s.setStandby { k with positions := remove n k.positions }⟩
    else refuse .badArg s

/-- WRITE_BANK_HEAD (R19, R169, R213). -/
def writeBankHeadCommand (r : Request) (payload : List Byte) (s : State) : Answer :=
  withClaim r s <| withForm payload 1 s <|
    if s.rules.copying then refuse .busy s
    else
      match headerOf (byteAt (arguments payload) 0) with
      | none => refuse .badArg s
      | some h => ⟨.ok, byte (bankCode s.rules.standby), s.setStandby { s.standbyBank with header := h }⟩

/-- The bank byte of READ_RULE's results: bit 0 the working bank, bit 1 the bank read, bit 2 occupied (R214). DESIGN
CHOICE (unsafe, log entry 26): R214 says nothing of bits 7 to 3, and the model sends them as 0. -/
def readRuleBankByte (working read : BankName) (occupied : Bool) : Byte :=
  (0 : BitVec 5) ++ BitVec.ofBool occupied ++ BitVec.ofNat 1 (bankCode read) ++ BitVec.ofNat 1 (bankCode working)

/-- READ_RULE (R20, R170): arguments before the copy state; needs no claim; changes nothing. -/
def readRuleCommand (_ : Request) (payload : List Byte) (s : State) : Answer :=
  let n := argByte payload 1
  withForm payload 2 s <|
    match bankOf (argByte payload 0) with
    | none => refuse .badArg s
    | some name =>
      if positionOk n then
        if name = s.rules.standby ∧ s.rules.copying then refuse .busy s
        else
          let k := s.rules.bank name
          let x := lookup n k.positions
          ⟨.ok, [readRuleBankByte s.rules.working name x.isSome] ++ byte n ++ [headerByte k.header] ++
            (match x with
              | none => countBytes 0
              | some y => countBytes y.hits ++ ruleBytes y.rule), s⟩
      else refuse .badArg s

/-- COPY_BANK (R21, R171): only starts the copy. -/
def copyBankCommand (r : Request) (payload : List Byte) (s : State) : Answer :=
  withClaim r s <| withForm payload 0 s <|
    if s.rules.copying then refuse .busy s
    else ⟨.ok, byte (bankCode s.rules.standby), { s with rules := { s.rules with copying := true } }⟩

/-- SWITCH_BANK (R25, R171): BUSY before STALE; the switch exchanges the designator and increments the generation. -/
def switchBankCommand (r : Request) (payload : List Byte) (s : State) : Answer :=
  withClaim r s <| withForm payload 2 s <|
    if s.rules.copying then refuse .busy s
    else if argWord payload 0 ≠ s.rules.generation then refuse .stale s
    else
      ⟨.ok, byte (bankCode s.rules.standby),
        { s with rules := { s.rules with working := s.rules.standby, generation := s.rules.generation + 1 } }⟩

/-- A bank as a copy leaves it: the header and rules of the bank copied, every counter 0 (R22). -/
def Bank.copied (k : Bank) : Bank := { k with positions := mapValues (fun x => { x with hits := 0 }) k.positions }

/-- The copy-complete event: the standby bank is the image of the working bank, and the copy state is IDLE (R22).
The positions are written here as a whole, since no request may see the bank before. DEDUCED, log entry 9. -/
def finishCopy (s : State) : State :=
  let s1 := s.setStandby (s.rules.bank s.rules.working).copied
  { s1 with rules := { s1.rules with copying := false } }

/-- RESTART TRAFFIC at the Rule List: every hit counter 0 (R26). -/
def RuleList.restartTraffic (r : RuleList) : RuleList :=
  { r with
    bankA := { r.bankA with positions := mapValues (fun x => { x with hits := 0 }) r.bankA.positions }
    bankB := { r.bankB with positions := mapValues (fun x => { x with hits := 0 }) r.bankB.positions } }

/-- The Rule List at the start of a reset: designator A, generation 0, IDLE (R27). -/
def RuleList.startReset (r : RuleList) : RuleList := { r with working := .a, generation := 0, copying := false }

/-! ## Events -/

/-- WRITE_BANK_HEAD is executed (R19). -/
def execWriteBankHead (s : State) : Host.Outcome State Fault Refusal :=
  .next (runRequest (isCommand 0x08) writeBankHeadCommand s)

/-- WRITE_RULE is executed (R15). -/
def execWriteRule (s : State) : Host.Outcome State Fault Refusal :=
  .next (runRequest (isCommand 0x0A) writeRuleCommand s)

/-- CLEAR_RULE is executed (R18). -/
def execClearRule (s : State) : Host.Outcome State Fault Refusal :=
  .next (runRequest (isCommand 0x0B) clearRuleCommand s)

/-- READ_RULE is executed (R20). -/
def execReadRule (s : State) : Host.Outcome State Fault Refusal :=
  .next (runRequest (isCommand 0x0C) readRuleCommand s)

/-- COPY_BANK is executed (R21). -/
def execCopyBank (s : State) : Host.Outcome State Fault Refusal :=
  .next (runRequest (isCommand 0x0D) copyBankCommand s)

/-- SWITCH_BANK is executed (R25). -/
def execSwitchBank (s : State) : Host.Outcome State Fault Refusal :=
  .next (runRequest (isCommand 0x0E) switchBankCommand s)

/-- COPY_COMPLETE (R22): it occurs only while the copy state is COPYING. -/
def execCopyComplete (s : State) : Host.Outcome State Fault Refusal :=
  .next (if s.device.resetHeld = false ∧ s.rules.copying then finishCopy s else s)

end Sys2Proof.Machine
end

