-- ==== Sys2Proof/Machine/StationTable.lean ====
section
/-! DEFINITION. The Station Table (03_the_station_table.md): learning, aging, lookup, and its commands. -/

namespace Sys2Proof.Machine

/-- The entry for a station address. -/
def State.station (s : State) (a : Word) : Option StationEntry := lookup a.toNat s.stations.entries

/-- `s` with the entry list replaced. -/
def State.setEntries (s : State) (l : List (Nat × StationEntry)) : State :=
  { s with stations := { s.stations with entries := l } }

/-- The table holds 256 entries (R53). -/
def State.tableFull (s : State) : Bool := decide (Config.stationCapacity ≤ s.stations.entries.length)

/-! ## Learning (3.2) -/

/-- What learning tells the Classifier: the frame goes on, or it fails the guard (R33, R59). -/
inductive Learnt where
  | goOn | guard
deriving DecidableEq, Repr

/-- A LEARNED entry for S on P with a full age. -/
def State.writeLearned (s : State) (a : Word) (p : Port) : State :=
  s.setEntries (put a.toNat ⟨p, .learned s.stations.ageLimit⟩ s.stations.entries)

/-- A move is counted; at or above the threshold with the storm flag clear, MOVE_STORM is raised and the flag set
(R58). -/
def State.countMove (s : State) (a : Word) : State :=
  let n := satNext 255 s.stations.moveCount
  if s.stations.threshold ≤ n ∧ s.stations.storm = false then
    ({ s with stations := { s.stations with moveCount := n, storm := true } }).raise .moveStorm a
  else { s with stations := { s.stations with moveCount := n } }

/-- Learning of source S on port P (R55 to R59). -/
def State.learn (s : State) (a : Word) (p : Port) : Learnt × State :=
  match s.station a with
  | none =>
    if s.tableFull then (.goOn, s.raise .stationFull a) else (.goOn, s.writeLearned a p)
  | some e =>
    match e.kind with
    | .pinned => if e.port = p then (.goOn, s) else (.guard, s)
    | .learned _ =>
      if e.port = p then (.goOn, s.writeLearned a p) else (.goOn, (s.writeLearned a p).countMove a)

/-! ## Aging and removal (3.3) -/

/-- One entry after an aging tick; none when its age has reached 0 (R61). -/
def ageEntry (e : Nat × StationEntry) : Option (Nat × StationEntry) :=
  match e.2.kind with
  | .pinned => some e
  | .learned age => if age ≤ 1 then none else some (e.1, { e.2 with kind := .learned (age - 1) })

/-- The entry is LEARNED. -/
def StationEntry.isLearned (e : StationEntry) : Bool :=
  match e.kind with
  | .learned _ => true
  | .pinned => false

/-- Every LEARNED entry of a port is removed (R62, R66). -/
def removeLearnedOn (p : Port) (l : List (Nat × StationEntry)) : List (Nat × StationEntry) :=
  l.filter (fun e => !(e.2.isLearned && decide (e.2.port = p)))

/-- Every LEARNED entry is removed (R66, R70). -/
def removeLearned (l : List (Nat × StationEntry)) : List (Nat × StationEntry) :=
  l.filter (fun e => !e.2.isLearned)

/-! ## Commands (3.5, 3.7) -/

/-- WRITE_STATION (R64, R172). -/
def writeStationCommand (r : Request) (payload : List Byte) (s : State) : Answer :=
  let a := argWord payload 0
  withClaim r s <| withForm payload 3 s <|
    match portOf (argByte payload 2) with
    | none => refuse .badArg s
    | some q =>
      if isStation a then
        let before := s.station a
        if before = none ∧ s.tableFull then refuse .full s
        else
          ⟨.ok, stationBytes a.toNat ⟨q, .pinned⟩ ++ stationBeforeBytes before,
            s.setEntries (put a.toNat ⟨q, .pinned⟩ s.stations.entries)⟩
      else refuse .badArg s

/-- DELETE_STATION (R65, R173). -/
def deleteStationCommand (r : Request) (payload : List Byte) (s : State) : Answer :=
  let a := argWord payload 0
  withClaim r s <| withForm payload 2 s <|
    if isStation a then
      match s.station a with
      | none => refuse .notFound s
      | some e => ⟨.ok, stationBytes a.toNat e, s.setEntries (remove a.toNat s.stations.entries)⟩
    else refuse .badArg s

/-- FLUSH_STATIONS (R66, R173): a port, or FFh for all; the reply gives how many entries were removed. -/
def flushStationsCommand (r : Request) (payload : List Byte) (s : State) : Answer :=
  let flushed (l : List (Nat × StationEntry)) : Answer :=
    ⟨.ok, half (s.stations.entries.length - l.length), s.setEntries l⟩
  withClaim r s <| withForm payload 1 s <|
    if argByte payload 0 = 0xFF then flushed (removeLearned s.stations.entries)
    else
      match portOf (argByte payload 0) with
      | none => refuse .badArg s
      | some q => flushed (removeLearnedOn q s.stations.entries)

/-- The three figures every READ_STATION reply with OK or NOT_FOUND carries (R67, R212). -/
def stationFigures (s : State) : List Byte :=
  half s.stations.entries.length ++ half s.stations.ageLimit ++ byte s.stations.threshold

/-- The form byte of READ_STATION: 0 ADDRESS, 1 INDEX, and nothing else (R174, R214). -/
def stationFormOk (payload : List Byte) : Bool := decide (argByte payload 0 ≤ 1)

/-- READ_STATION by address (R67, R174); it changes nothing. -/
def readStationAddressCommand (_ : Request) (payload : List Byte) (s : State) : Answer :=
  let a := argWord payload 1
  withForm payload 3 s <|
    if stationFormOk payload && isStation a then
      match s.station a with
      | none => ⟨.notFound, stationFigures s, s⟩
      | some e => ⟨.ok, stationFigures s ++ stationBytes a.toNat e, s⟩
    else refuse .badArg s

/-- READ_STATION by list index (R68, R174): up to six entries from the index on; it changes nothing. -/
def readStationIndexCommand (_ : Request) (payload : List Byte) (s : State) : Answer :=
  let i := argHalf payload 1
  withForm payload 3 s <|
    if stationFormOk payload && decide (i ≤ 255) then
      let found := (s.stations.entries.drop i).take 6
      ⟨.ok, stationFigures s ++ byte i ++ byte found.length ++ found.flatMap (fun e => stationBytes e.1 e.2), s⟩
    else refuse .badArg s

/-- One entry after SET_AGING: a LEARNED age above the new limit becomes the limit (R69). -/
def capAge (limit : Nat) (e : StationEntry) : StationEntry :=
  match e.kind with
  | .pinned => e
  | .learned age => if limit < age then { e with kind := .learned limit } else e

/-- The entry's age is above the limit (R69, R175). -/
def aboveLimit (limit : Nat) (e : StationEntry) : Bool :=
  match e.kind with
  | .pinned => false
  | .learned age => decide (limit < age)

/-- SET_AGING (R69, R175). -/
def setAgingCommand (r : Request) (payload : List Byte) (s : State) : Answer :=
  let limit := argHalf payload 0
  let threshold := argByte payload 2
  withClaim r s <| withForm payload 3 s <|
    if 1 ≤ limit ∧ limit ≤ 4095 ∧ 1 ≤ threshold then
      ⟨.ok, half limit ++ byte threshold ++ half (s.stations.entries.countP (fun e => aboveLimit limit e.2)),
        { s with stations :=
            { s.stations with
              entries := mapValues (capAge limit) s.stations.entries
              ageLimit := limit
              threshold := threshold } }⟩
    else refuse .badArg s

/-! ## Resets (3.11) -/

/-- RESTART TRAFFIC at the Station Table (R70). -/
def StationTable.restartTraffic (t : StationTable) : StationTable :=
  { t with entries := removeLearned t.entries, moveCount := 0, storm := false }

/-- The Station Table at the start of a reset (R71); its entries stay until the sweep. -/
def StationTable.startReset (t : StationTable) : StationTable :=
  { t with ageLimit := 300, threshold := 16, moveCount := 0, storm := false }

/-- The aging clock and the move window begin new intervals (R60, R61, R201). -/
def StationTable.startClocks (t : StationTable) : StationTable :=
  { t with agingClock := Config.windowMs, moveWindow := Config.windowMs }

/-! ## Events -/

/-- WRITE_STATION is executed (R64). -/
def execWriteStation (s : State) : Host.Outcome State Fault Refusal :=
  .next (runRequest (isCommand 0x0F) writeStationCommand s)

/-- DELETE_STATION is executed (R65). -/
def execDeleteStation (s : State) : Host.Outcome State Fault Refusal :=
  .next (runRequest (isCommand 0x10) deleteStationCommand s)

/-- FLUSH_STATIONS is executed (R66). -/
def execFlushStations (s : State) : Host.Outcome State Fault Refusal :=
  .next (runRequest (isCommand 0x11) flushStationsCommand s)

/-- READ_STATION by address is executed (R67). -/
def execReadStationAddress (s : State) : Host.Outcome State Fault Refusal :=
  .next (runRequest (isForm 0x1A 1) readStationAddressCommand s)

/-- READ_STATION by list index is executed (R68). -/
def execReadStationIndex (s : State) : Host.Outcome State Fault Refusal :=
  .next (runRequest (isForm 0x1A 0) readStationIndexCommand s)

/-- SET_AGING is executed (R69). -/
def execSetAging (s : State) : Host.Outcome State Fault Refusal :=
  .next (runRequest (isCommand 0x12) setAgingCommand s)

/-- AGING_TICK (R61): every LEARNED age falls by one, entries at 0 leave, and a new interval begins. -/
def execAgingTick (s : State) : Host.Outcome State Fault Refusal :=
  .next (if s.device.resetHeld = false then
      { s with stations :=
          { s.stations with entries := s.stations.entries.filterMap ageEntry, agingClock := Config.windowMs } }
    else s)

/-- MOVE_WINDOW_EXPIRY (R60): the move count becomes 0, the storm flag clear, and a new window begins. -/
def execMoveWindowExpiry (s : State) : Host.Outcome State Fault Refusal :=
  .next (if s.device.resetHeld = false then
      { s with stations := { s.stations with moveCount := 0, storm := false, moveWindow := Config.windowMs } }
    else s)

end Sys2Proof.Machine
end

