-- ==== Sys2Proof/Machine/Classifier.lean ====
section
/-! DEFINITION. The classification event (02_frame_classification.md): steps 0 to 13 on the oldest frame of a port
that awaits it. -/

namespace Sys2Proof.Machine

/-! ## Target sets (2.3) -/

/-- Every ACTIVE port other than the arrival port (R43). -/
def floodTargets (s : State) (p : Port) : List Port :=
  allPorts.filter (fun q => decide (q ≠ p) && s.isActive q)

/-- A target set, and the counter charged when it is empty. -/
structure Targets where
  ports : List Port
  charge : Option Counter
deriving DecidableEq, Repr

/-- A flood charges RX_UNREACH when no port is left (R43). -/
def floodTo (s : State) (p : Port) : Targets :=
  let ports := floodTargets s p
  ⟨ports, if ports.isEmpty then some .rxUnreach else none⟩

/-- The target set of one port `q` (R42, R43). -/
def soleTarget (s : State) (p q : Port) : Targets :=
  if q = p then ⟨[], some .rxLocal⟩
  else if s.isActive q then ⟨[q], none⟩
  else ⟨[], some .rxUnreach⟩

/-- A PASS resolved by destination (R43). -/
def resolve (s : State) (p : Port) (dest : Word) : Targets :=
  if isStation dest then
    match s.station dest with
    | some e => soleTarget s p e.port
    | none => floodTo s p
  else floodTo s p

/-- A non-empty port limit narrows the targets; a set that it empties charges RX_RULEDROP (R44). -/
def narrow (limit : BitVec 5) (t : Targets) : Targets :=
  if limit = 0 ∨ t.ports = [] then t
  else
    let ports := t.ports.filter (fun q => inPortSet q limit)
    ⟨ports, if ports.isEmpty then some .rxRuleDrop else none⟩

/-- Step 8: the verdict's target set (R41 to R44). -/
def verdictTargets (s : State) (p : Port) (dest : Word) (a : Action) : Targets :=
  match a.verdict with
  | .drop => ⟨[], some .rxRuleDrop⟩
  | .steer =>
    match portOf a.steerPort.toNat with
    | none => ⟨[], some .rxUnreach⟩
    | some q => soleTarget s p q
  | .pass => narrow a.portLimit (resolve s p dest)

/-! ## Rewrites (2.4) -/

/-- The tag after a tag operation (R45). -/
def tagAfter (a : Action) (tag : Option (BitVec 12)) : Option (BitVec 12) :=
  match a.tagOp with
  | .leave => tag
  | .set => some (a.tagValue.setWidth 12)
  | .strip => none

/-- Step 9: class and tag unless the verdict is DROP, one hop less, the check recomputed (R45, R46). -/
def rewrite (a : Action) (f : Frame) : Frame :=
  let g :=
    if a.verdict = .drop then f
    else { f with cls := if a.classPresent then a.classValue.setWidth 2 else f.cls, tag := tagAfter a f.tag }
  ({ g with hops := g.hops - 1 }).recheck

/-- A frame demoted by a meter: class 0, the check recomputed (R47). -/
def demote (f : Frame) : Frame := ({ f with cls := 0 }).recheck

/-! ## Counting and placing (2.7) -/

/-- The arrival port's counter is charged, when there is one (R51). -/
def State.charge (s : State) (p : Port) (c : Option Counter) : State :=
  match c with
  | none => s
  | some k => s.count p k

/-- The content of slot `n` is replaced (R45 to R47). -/
def State.rewriteSlot (s : State) (n : Nat) (f : Frame) : State :=
  match s.slot n with
  | none => s
  | some x => s.setSlots (put n { x with frame := f } s.store.slots)

/-- One reference is placed in class queue `c` of each target (R50). -/
def State.placeAll (c : BitVec 2) (n : Nat) : List Port → State → State
  | [], s => s
  | q :: rest, s => State.placeAll c n rest (s.place q c n)

/-! ## The steps from evaluation on -/

/-- What step 10 leaves: the part, the forwarding targets, the content (R47). -/
structure Metered where
  state : State
  ports : List Port
  frame : Frame

/-- Step 10 (R47): a frame with targets is charged to the meter its action names. The cost is that of the payload,
which no rewrite changes. -/
def meterStep (s : State) (p : Port) (a : Action) (ports : List Port) (f : Frame) : Metered :=
  if a.meterPresent ∧ ports ≠ [] then
    let out := s.consult a.meter.toNat (frameCost f)
    match out.1 with
    | .notConsulted => ⟨out.2, ports, f⟩
    | .conforms => ⟨out.2, ports, f⟩
    | .exceeds .drop => ⟨out.2.count p .rxMeterDrop, [], f⟩
    | .exceeds .demote => ⟨out.2, ports, demote f⟩
  else ⟨s, ports, f⟩

/-- Step 11: the observation port takes a copy (R48). -/
def copyTarget (s : State) (p : Port) (d : Decision) (ports : List Port) : Option Port :=
  if d.action.copy then
    match d.observation with
    | none => none
    | some o => if s.isActive o ∧ o ≠ p ∧ o ∉ ports then some o else none
  else none

/-- Step 12: a RULE_HIT occurrence with the deciding position (R49). -/
def noticeStep (s : State) (d : Decision) : State :=
  match d.position with
  | none => s
  | some n => if d.action.notice then s.raise .ruleHit (BitVec.ofNat 16 n) else s

/-- Steps 7 to 13 for a frame that is evaluated (R40 to R50). -/
def State.forwardEvaluated (s : State) (p : Port) (n : Nat) (f : Frame) : State :=
  let d := evaluate p f s
  let s1 := countHit d s
  let t := verdictTargets s1 p f.dest d.action
  let m := meterStep (s1.charge p t.charge) p d.action t.ports (rewrite d.action f)
  let copy := copyTarget m.state p d m.ports
  let s2 := (noticeStep m.state d).rewriteSlot n m.frame
  let s3 := State.placeAll m.frame.cls n m.ports s2
  match copy with
  | none => s3
  | some o => s3.place o 0 n

/-- Steps 7 and 13 for a SYNC frame: every ACTIVE branch, its own class, one hop less (R39). -/
def State.forwardSync (s : State) (p : Port) (n : Nat) (f : Frame) : State :=
  let ports := branches.filter s.isActive
  if ports.isEmpty then s.count p .rxUnreach
  else State.placeAll f.cls n ports (s.rewriteSlot n ({ f with hops := f.hops - 1 }).recheck)

/-- Steps 5 to 13. -/
def State.forward (s : State) (p : Port) (n : Nat) (f : Frame) : State :=
  if (s.port p).state = .listen then s.count p .rxListen
  else if f.hops = 0 then s.count p .rxExpired
  else if f.kind = .sync then s.forwardSync p n f
  else s.forwardEvaluated p n f

/-- Step 4 and what follows it (R34, R35, R36). -/
def State.manageStep (s : State) (p : Port) (n : Nat) (f : Frame) : State :=
  if f.dest = s.agent.address then
    if f.kind = .mgmt then
      if (s.port p).allowed then s.offerDirect p n f else s.count p .rxMgmtRefused
    else s.count p .rxLocal
  else if f.kind = .mgmt ∧ f.dest = Config.broadcast ∧ (s.port p).allowed then
    (s.offerBroadcast p n f).forward p n f
  else s.forward p n f

/-- Step 2: the trunk sync event of a SYNC frame on an ACTIVE T (R32). -/
def State.syncStep (s : State) (p : Port) (f : Frame) : State :=
  if f.kind = .sync ∧ p = .t ∧ s.isActive .t then s.trunkSync else s

/-- Steps 0 to 13 on the frame `f` of port `p` in slot `n` (R28 to R50). -/
def State.classify (s : State) (p : Port) (n : Nat) (f : Frame) : State :=
  if s.device.state ≠ .running then
    { s with agent := { s.agent with startupDiscards := s.agent.startupDiscards + 1 } }
  else if s.inService p = false then s.count p .rxListen
  else if f.src = s.agent.address then s.count p .rxOwn
  else if f.kind = .sync ∧ p ≠ .t then s.count p .rxSyncMisplaced
  else
    let out := (s.syncStep p f).learn f.src p
    match out.1 with
    | .guard => out.2.count p .rxGuard
    | .goOn => out.2.manageStep p n f

/-- `s` with the frames of port `p` that await classification replaced. -/
def State.setAwaiting (s : State) (p : Port) (l : List Nat) : State :=
  { s with store := { s.store with awaiting := s.store.awaiting.set p l } }

/-- CLASSIFICATION of the oldest frame of port `p` that awaits it (R28, R30). At its end the classification reference
is released. It occurs only while a frame of the port awaits it. -/
def execClassification (p : Port) (s : State) : Host.Outcome State Fault Refusal :=
  .next (if s.device.resetHeld = false then
      match s.store.awaiting.get p with
      | [] => s
      | n :: rest =>
        let s1 := s.setAwaiting p rest
        match s.slot n with
        | none => s1
        | some x => (s1.classify p n x.frame).releaseRef n
    else s)

end Sys2Proof.Machine
end

