-- ==== Sys2Proof/Machine/Notices.lean ====
section
/-! DEFINITION. The Notice Unit (09_notices.md): the service event, first sends, resends and give-ups, and the notice
commands. -/

namespace Sys2Proof.Machine

/-! ## Sending (9.2 to 9.4) -/

/-- Some source with S set has this current sequence. -/
def sequenceInUse (s : State) (n : Nat) : Bool :=
  allSources.any (fun r =>
    match (s.source r).record with
    | none => false
    | some x => decide (x.sequence = n))

/-- The value after `n` of the sequence counter, 255 going to 1 (R188). -/
def afterSequence (n : Nat) : Nat := if n < 255 then n + 1 else 1

/-- The next sequence from `n` on that no source in service has. At most eight values are in use, so the fuel of
`nextSequence` reaches a free one (R188). -/
def skipSequences : Nat → State → Nat → Nat
  | 0, _, n => n
  | fuel + 1, s, n => if sequenceInUse s n then skipSequences fuel s (afterSequence n) else n

/-- The sequence a first send takes (R188 step 1). -/
def nextSequence (s : State) : Nat := skipSequences 9 s (afterSequence s.notices.sequence)

/-- The payload of a notice (R189, R215): the sets are those of the state given. -/
def noticePayload (s : State) (r : Source) (x : NoticeRecord) : List Byte :=
  byte x.sequence ++ byte (sourceRank r) ++ byte x.attempt ++ byte x.sent ++ wordBytes x.detail
    ++ [pendingSet s, inServiceSet s]

/-- The notice frame of a record (R189). -/
def noticeFrame (s : State) (r : Source) (x : NoticeRecord) : Frame :=
  ownFrame s.notices.target s.agent.address .notice (BitVec.ofNat 8 x.sequence) (noticePayload s r x)

/-- The interval in ms (R179). -/
def intervalMs (s : State) : Nat := s.notices.interval * 10

/-- The notice of `x` is built and offered to the target port; the attempt stands whatever becomes of it (R190). -/
def State.offerNotice (s : State) (r : Source) (x : NoticeRecord) : State :=
  (s.placeOwn s.notices.port (noticeFrame s r x)).2

/-- A first send (R188): sequence, record, source, frame, timer. -/
def State.firstSend (s : State) (r : Source) : State :=
  let src := s.source r
  let n := nextSequence s
  let x : NoticeRecord := ⟨n, 1, src.occurrences, src.detail⟩
  let s1 := { s with notices := { s.notices with sequence := n } }
  let s2 := s1.setSource r
    { src with pending := false, occurrences := 0, record := some x, timer := some (intervalMs s) }
  s2.offerNotice r x

/-- A resend (R191): the next attempt with the sequence, count and detail of the record. -/
def State.resendNotice (s : State) (r : Source) (x : NoticeRecord) : State :=
  let y : NoticeRecord := { x with attempt := x.attempt + 1 }
  let s1 := s.setSource r { s.source r with record := some y, resendDue := false, timer := some (intervalMs s) }
  s1.offerNotice r y

/-- The send that waits at source `r`: a resend that is due, else a first send it is eligible for (R186). -/
def sendOf (s : State) (r : Source) : Option State :=
  if (s.source r).resendDue then
    match (s.source r).record with
    | some x => some (s.resendNotice r x)
    | none => none
  else if eligible s r then some (s.firstSend r)
  else none

/-- The claim of a candidate has failed: READY becomes WAITING and NOTICE_DEFERRED counts (R187). -/
def State.deferService (s : State) : State :=
  if s.notices.waiting then s
  else { s with notices := { s.notices with waiting := true, deferred := s.notices.deferred + 1 } }

/-- Candidates are served in rank order until one finds no slot; when all are served the unit is READY (R187). -/
def State.serve : List Source → State → State
  | [], s => { s with notices := { s.notices with waiting := false } }
  | r :: rest, s =>
    match sendOf s r with
    | none => State.serve rest s
    | some s' => if s.lowestFreeSlot = none then s.deferService else State.serve rest s'

/-- A WAITING unit that holds no candidate becomes READY (R187). -/
def State.settleReady (s : State) : State :=
  if anyCandidate s then s else { s with notices := { s.notices with waiting := false } }

/-- A service event is due (R187). -/
def State.causeService (s : State) : State := { s with notices := { s.notices with causeDue := true } }

/-- The service events that are due are taken together; in WAITING only a slot offer serves (R187). Nothing when none
is due. DEDUCED, log entry 7. -/
def State.takeService (s : State) : State :=
  if s.notices.causeDue ∨ s.notices.offerDue then
    let s1 := { s with notices := { s.notices with causeDue := false, offerDue := false } }
    if s.notices.waiting = false ∨ s.notices.offerDue then s1.serve allSources else s1
  else s

/-! ## Settling (9.4, 9.5, 9.6) -/

/-- The notice in service of a source ends: S clear, timer stopped, resend due clear, record abandoned (R192, R193,
R195). -/
def NoticeSource.settled (x : NoticeSource) : NoticeSource :=
  { x with record := none, timer := none, resendDue := false }

/-- The source with S set whose current sequence is `n` (R181). -/
def sourceOfSequence (s : State) (n : Nat) : Option Source :=
  allSources.find? (fun r =>
    match (s.source r).record with
    | none => false
    | some x => decide (x.sequence = n))

/-- NOTICE_ACK (R181, R193): the target test comes before the form check (R158). -/
def noticeAckCommand (r : Request) (payload : List Byte) (s : State) : Answer :=
  let n := argByte payload 0
  if s.notices.target = 0 ∨ r.source ≠ s.notices.target then refuse .notTarget s
  else
    withForm payload 1 s <|
      if n = 0 then refuse .badArg s
      else
        match sourceOfSequence s n with
        | none => refuse .stale s
        | some q => ⟨.ok, byte (sourceRank q), ((s.setSource q (s.source q).settled).settleReady).causeService⟩

/-- Every source's E is replaced by its bit of the enable set (R196). -/
def withEnableSet (x : PerSource NoticeSource) (set : Byte) : PerSource NoticeSource :=
  { storeExhausted := { x.storeExhausted with enabled := set.getLsbD 0 }
    portBlocked := { x.portBlocked with enabled := set.getLsbD 1 }
    syncLost := { x.syncLost with enabled := set.getLsbD 2 }
    moveStorm := { x.moveStorm with enabled := set.getLsbD 3 }
    stationFull := { x.stationFull with enabled := set.getLsbD 4 }
    meterSpent := { x.meterSpent with enabled := set.getLsbD 5 }
    claimExpired := { x.claimExpired with enabled := set.getLsbD 6 }
    ruleHit := { x.ruleHit with enabled := set.getLsbD 7 } }

/-- The settings of a SET_NOTICE (R180, R195, R196): a change of target abandons every notice in service. -/
def applyNotice (s : State) (target : Word) (port : Port) (set : Byte) (interval : Nat) : State :=
  let sources :=
    if target ≠ s.notices.target ∨ port ≠ s.notices.port then s.notices.sources.map NoticeSource.settled
    else s.notices.sources
  ({ s with notices :=
      { s.notices with
        target := target, port := port, interval := interval, sources := withEnableSet sources set } }).settleReady.causeService

/-- SET_NOTICE (R179, R180). -/
def setNoticeCommand (r : Request) (payload : List Byte) (s : State) : Answer :=
  let target := argWord payload 0
  let set := byteAt (arguments payload) 3
  let interval := argByte payload 4
  withClaim r s <| withForm payload 5 s <|
    match portOf (argByte payload 2) with
    | none => refuse .badArg s
    | some p =>
      if (target = 0 ∨ isStation target) ∧ interval ≠ 0 then
        let s1 := applyNotice s target p set interval
        ⟨.ok, wordBytes target ++ byte (portNumber p) ++ [set] ++ byte interval ++ [pendingSet s1, inServiceSet s1], s1⟩
      else refuse .badArg s

/-! ## Resets (9.10) -/

/-- One source after RESTART TRAFFIC: all but E cleared (R198). -/
def NoticeSource.restartTraffic (x : NoticeSource) : NoticeSource := { NoticeSource.fresh with enabled := x.enabled }

/-- RESTART TRAFFIC at the Notice Unit (R198). -/
def NoticeUnit.restartTraffic (u : NoticeUnit) : NoticeUnit :=
  { u with sources := u.sources.map NoticeSource.restartTraffic, waiting := false }

/-! ## Events -/

/-- NOTICE_SERVICE (R187): the Notice Unit takes the service events that are due. -/
def execNoticeService (s : State) : Host.Outcome State Fault Refusal :=
  .next (if s.device.resetHeld = false then s.takeService else s)

/-- RESEND_TIMER_EXPIRY (R191, R192): resend due at attempts 1 to 3, give-up at attempt 4; it occurs only while the
source's timer runs. -/
def execResendTimerExpiry (r : Source) (s : State) : Host.Outcome State Fault Refusal :=
  let src := s.source r
  .next (if s.device.resetHeld = false ∧ src.timer.isSome then
      match src.record with
      | none => s
      | some x =>
        if x.attempt < 4 then (s.setSource r { src with timer := none, resendDue := true }).causeService
        else
          let s1 := s.setSource r src.settled
          ({ s1 with notices := { s1.notices with lost := s1.notices.lost + 1 } }).causeService
    else s)

/-- SET_NOTICE is executed (R180). -/
def execSetNotice (s : State) : Host.Outcome State Fault Refusal :=
  .next (runRequest (isCommand 0x16) setNoticeCommand s)

/-- NOTICE_ACK is executed (R181). -/
def execNoticeAck (s : State) : Host.Outcome State Fault Refusal :=
  .next (runRequest (isCommand 0x17) noticeAckCommand s)

end Sys2Proof.Machine
end

