-- ==== Sys2Proof/Machine/Egress.lean ====
section
/-! DEFINITION. The egress events of Chapter 5: the completion of a transmission, and what RESTART TRAFFIC and the start
of a reset do to the five egresses. Selection, placement and flushes are shared operations (Ops.lean). -/

namespace Sys2Proof.Machine

/-- The transmission of slot `n` on `p` ends: TX_GOOD, the reference released, IDLE (R107, R111). -/
def State.endTransmission (s : State) (p : Port) (n : Nat) : State :=
  let e := (s.port p).egress
  (((s.count p .txGood).setEgress p { e with transmitter := none, line := .endMark }).reportEnd n).releaseRef n

/-- The end of the transmission of slot `n` and the selection that follows when the port is in service (R107). Where the
release frees a slot while the Notice Unit holds a candidate, R107 lets the placement of its notice come before the
selection or, as a NOTICE_SERVICE, after it: a free value decides. Log entry 8. -/
def State.finishTransmission (s : State) (p : Port) (n : Nat) : State :=
  let s1 := s.endTransmission p n
  if s1.slot n = none ∧ anyCandidate s1 then
    let s2 := { s1 with choices := s1.choices + 1 }
    if Config.noticeFirst s1.choices then s2.takeService.select p else s2.select p
  else s1.select p

/-- TRANSMIT_COMPLETE (R107): it occurs only while the transmitter is SENDING. -/
def execTransmitComplete (p : Port) (s : State) : Host.Outcome State Fault Refusal :=
  .next (if s.device.resetHeld = false then
      match (s.port p).egress.transmitter with
      | none => s
      | some n => s.finishTransmission p n
    else s)

/-- Every egress is stopped: transmissions aborted, queues emptied, rounds closed (R110, R113). -/
def State.stopAll (s : State) : State :=
  ((((s.stopEgress .t).stopEgress .b1).stopEgress .b2).stopEgress .b3).stopEgress .b4

end Sys2Proof.Machine
end

