-- ==== Sys2Proof/Machine/Ports.lean ====
section
/-! DEFINITION. The port units (06_ports_links_and_trunk_sync.md): reception and validation, port states, blocking,
counters and their image, the trunk sync lock, and the port and sync commands. -/

namespace Sys2Proof.Machine

/-! ## Port states (6.3) -/

/-- The port state a commanded mode gives (R120). -/
def Mode.toState : Mode → PortState
  | .disabled => .disabled | .listen => .listen | .active => .active

/-- A port leaves LISTEN or ACTIVE for DISABLED or BLOCKED: reception discarded, egress stopped, LEARNED entries
removed, error count 0, and for T the lock acted on (R122, R62, R109, R133). -/
def State.leaveService (s : State) (p : Port) (new : PortState) : State :=
  let wasActive := s.isActive p
  let s1 := s.stopEgress p
  let s2 := s1.setPort p { s1.port p with state := new, receiver := .idle, errorCount := 0 }
  let s3 := s2.setEntries (removeLearnedOn p s2.stations.entries)
  if p = .t ∧ wasActive then s3.trunkLeavesActive else s3

/-- The mode of a SET_PORT is taken (R121, R122, R123). -/
def State.applyMode (s : State) (p : Port) (mode : Mode) : State :=
  let u := s.port p
  let was := u.state
  if was = mode.toState then s.setPort p { u with commanded := mode }
  else if mode = .disabled then
    if was = .blocked then s.setPort p { u with commanded := mode, state := .disabled, blockTimer := none }
    else (s.setPort p { u with commanded := mode }).leaveService p .disabled
  else
    let receiver := if was = .disabled ∨ was = .blocked then .idle else u.receiver
    let s1 := s.setPort p
      { u with commanded := mode, state := mode.toState, blockTimer := none, receiver := receiver }
    if p = .t ∧ was = .active then s1.trunkLeavesActive else s1

/-! ## Receive errors and blocking (6.4) -/

/-- A branch reaches its error limit: it enters BLOCKED, its block timer starts, PORT_BLOCKED is raised (R125). -/
def State.block (s : State) (p : Port) : State :=
  let s1 := s.leaveService p .blocked
  (s1.setPort p { s1.port p with blockTimer := some ((s1.port p).blockInterval * 1000) }).raise
    .portBlocked (BitVec.ofNat 16 (portNumber p))

/-- RX_CRC or RX_MALFORMED counts, also in the error window, and may block a branch (R124, R125, R127). -/
def State.countError (s : State) (p : Port) (c : Counter) : State :=
  let s1 := s.count p c
  let u := s1.port p
  let n := satNext 255 u.errorCount
  let s2 := s1.setPort p { u with errorCount := n }
  if p ≠ .t ∧ u.errorLimit ≠ 0 ∧ u.errorLimit ≤ n then s2.block p else s2

/-! ## Reception (6.1, 6.2, R92) -/

/-- Data bytes arrive at a receiver: each is counted, the first 76 are stored; an IDLE receiver ignores them (R115). -/
def Receiver.feed (data : List Byte) : Receiver → Receiver
  | .idle => .idle
  | .receiving stored n => .receiving ((stored ++ data).take Config.receiveBytes) (n + data.length)

/-- The slot claim of a good frame (R92): RX_QUOTA, RX_NOSLOT with STORE_EXHAUSTED, or the lowest free slot. -/
def State.claimSlot (s : State) (p : Port) (f : Frame) : State :=
  if (s.port p).quota ≤ s.store.held.get p then s.count p .rxQuota
  else
    match s.lowestFreeSlot with
    | none => (s.count p .rxNoSlot).raise .storeExhausted (BitVec.ofNat 16 (portNumber p))
    | some n =>
      let s1 := s.fillSlot n f (.port p) 1
      { s1 with store :=
          { s1.store with
            held := s1.store.held.set p (s1.store.held.get p + 1)
            awaiting := s1.store.awaiting.set p (s1.store.awaiting.get p ++ [n]) } }

/-- STARTUP_DISCARDS counts (R155). -/
def State.countStartupDiscard (s : State) : State :=
  { s with agent := { s.agent with startupDiscards := s.agent.startupDiscards + 1 } }

/-- The frame in reception ends: discarded while the device is not RUNNING (R116), else validated and, when good,
counted and given its claim (R117, R119). The receiver is IDLE before this. -/
def State.judgeReception (s : State) (p : Port) (stored : List Byte) (n : Nat) (cutOff : Bool) : State :=
  if s.device.state = .running then
    if cutOff then s.count p .rxAbort
    else
      match judgeFrame stored n with
      | .bad c => s.countError p c
      | .good f => (s.count p .rxGood).claimSlot p f
  else s.countStartupDiscard

/-- `s` with the receiver of port `p` replaced. -/
def State.setReceiver (s : State) (p : Port) (x : Receiver) : State := s.setPort p { s.port p with receiver := x }

/-- A mark, or idle fill, reaches the receiver of a port in service (R115). While it is RECEIVING, the frame ends. A
start mark then begins a new one; what reaches an IDLE receiver and is no start mark is ignored. -/
def State.receiveEnding (s : State) (p : Port) (ending : Ending) : State :=
  let s1 :=
    match (s.port p).receiver with
    | .idle => s
    | .receiving stored n => (s.setReceiver p .idle).judgeReception p stored n (decide (ending ≠ .endMark))
  if ending = .startMark then s1.setReceiver p (.receiving [] 0) else s1

/-! ## Commands (8.4, 8.7) -/

/-- The arguments of a SET_PORT are in range (R164). -/
def setPortArgsOk (payload : List Byte) : Bool :=
  let quota := argHalf payload 3
  let block := argByte payload 7
  (flagOf (argByte payload 2)).isSome && decide (16 ≤ quota ∧ quota ≤ 384) && decide (1 ≤ block ∧ block ≤ 60)
    && decide (1 ≤ argByte payload 8 ∧ argByte payload 8 ≤ 16)
    && decide (1 ≤ argByte payload 9 ∧ argByte payload 9 ≤ 16)
    && decide (1 ≤ argByte payload 10 ∧ argByte payload 10 ≤ 16)

/-- The settings of a SET_PORT but for its mode (R121). -/
def PortUnit.withSettings (u : PortUnit) (payload : List Byte) : PortUnit :=
  { u with
    allowed := decide (argByte payload 2 = 1)
    quota := argHalf payload 3
    errorLimit := argByte payload 6
    blockInterval := argByte payload 7
    egress :=
      { u.egress with
        residency := argByte payload 5
        share2 := argByte payload 8
        share1 := argByte payload 9
        share0 := argByte payload 10 } }

/-- The state record of port `p` as it stands (R166). -/
def portRecord (s : State) (p : Port) : List Byte := portStateBytes (s.port p) (s.store.held.get p)

/-- SET_PORT (R164, R121). -/
def setPortCommand (r : Request) (payload : List Byte) (s : State) : Answer :=
  withClaim r s <| withForm payload 11 s <|
    match portOf (argByte payload 0), modeOf (argByte payload 1) with
    | some p, some mode =>
      if setPortArgsOk payload then
        let s1 := (s.setPort p ((s.port p).withSettings payload)).applyMode p mode
        ⟨.ok, byte (portNumber p) ++ portRecord s1 p, s1⟩
      else refuse .badArg s
    | _, _ => refuse .badArg s

/-- READ_PORT without the clear flag (R166): it needs no claim and changes nothing. -/
def readPortCommand (_ : Request) (payload : List Byte) (s : State) : Answer :=
  let part := argByte payload 1
  withForm payload 2 s <|
    match portOf (argByte payload 0) with
    | none => refuse .badArg s
    | some p =>
      let u := s.port p
      let answer (bs : List Byte) : Answer := ⟨.ok, byte (portNumber p) ++ byte part ++ bs, s⟩
      match part with
      | 0 => answer (portRecord s p)
      | 1 => answer (countsOne u.counters)
      | 2 => answer (countsTwo u.counters)
      | 3 => answer (countsOne u.image)
      | 4 => answer (countsTwo u.image)
      | _ => refuse .badArg s

/-- The 20 live counters are written into the image and become 0 (R167). -/
def PortUnit.clearCounters (u : PortUnit) : PortUnit := { u with image := u.counters, counters := .zero }

/-- READ_PORT with the clear flag (R167). -/
def readPortClearCommand (r : Request) (payload : List Byte) (s : State) : Answer :=
  let part := argByte payload 1
  withClaim r s <| withForm payload 2 s <|
    match portOf (argByte payload 0) with
    | none => refuse .badArg s
    | some p =>
      let u := s.port p
      let answer (bs : List Byte) : Answer :=
        ⟨.ok, byte (portNumber p) ++ byte part ++ bs, s.setPort p u.clearCounters⟩
      match part with
      | 1 => answer (countsOne u.counters)
      | 2 => answer (countsTwo u.counters)
      | _ => refuse .badArg s

/-- The time remaining on a LOCKED lock's timer is capped to a new timeout (R134). -/
def TrunkSync.setTimeout (x : TrunkSync) (timeout : Nat) : TrunkSync :=
  { x with timeout := timeout, timer := if x.locked then x.timer.map (min timeout) else x.timer }

/-- SET_SYNC (R134, R178). -/
def setSyncCommand (r : Request) (payload : List Byte) (s : State) : Answer :=
  let timeout := argByte payload 0
  withClaim r s <| withForm payload 1 s <|
    if timeout = 0 then refuse .badArg s
    else
      let x := s.sync.setTimeout timeout
      ⟨.ok, byte timeout ++ byte (bit x.locked) ++ byte (x.timer.getD 0), { s with sync := x }⟩

/-! ## Resets (6.9) -/

/-- RESTART TRAFFIC at one port unit, beside its egress (R135). -/
def PortUnit.restartTraffic (u : PortUnit) : PortUnit := { u with counters := .zero, errorCount := 0 }

/-- A port unit at the start of a reset (R113, R136, R168). The error window's interval and the line are kept. -/
def PortUnit.startReset (u : PortUnit) : PortUnit :=
  { PortUnit.fresh with
    errorWindow := u.errorWindow
    egress := { Egress.fresh with line := u.egress.line } }

/-! ## Events -/

/-- START_MARK (R115): ignored while RESET_N is low or the port is out of service. -/
def execStartMark (p : Port) (s : State) : Host.Outcome State Fault Refusal :=
  .next (if s.device.resetHeld = false ∧ s.inService p then s.receiveEnding p .startMark else s)

/-- END_OF_FRAME (R115 to R119): the data bytes reach the receiver, and then what ended the frame. -/
def execEndOfFrame (p : Port) (data : List Byte) (ending : Ending) (s : State) :
    Host.Outcome State Fault Refusal :=
  .next (if s.device.resetHeld = false ∧ s.inService p then
      (s.setReceiver p ((s.port p).receiver.feed data)).receiveEnding p ending
    else s)

/-- BLOCK_TIMER_EXPIRY (R126): a BLOCKED port returns to its commanded mode. -/
def execBlockTimerExpiry (p : Port) (s : State) : Host.Outcome State Fault Refusal :=
  .next (if s.device.resetHeld = false ∧ (s.port p).state = .blocked then
      s.setPort p
        { s.port p with state := (s.port p).commanded.toState, blockTimer := none, receiver := .idle }
    else s)

/-- ERROR_WINDOW_EXPIRY (R124): the count becomes 0 and the next interval begins. -/
def execErrorWindowExpiry (p : Port) (s : State) : Host.Outcome State Fault Refusal :=
  .next (if s.device.resetHeld = false then
      s.setPort p { s.port p with errorCount := 0, errorWindow := Config.windowMs }
    else s)

/-- SYNC_TIMER_EXPIRY (R132): it occurs only while the lock is LOCKED. -/
def execSyncTimerExpiry (s : State) : Host.Outcome State Fault Refusal :=
  .next (if s.device.resetHeld = false ∧ s.sync.locked then s.loseSync 0 else s)

/-- SET_PORT is executed (R164). -/
def execSetPort (s : State) : Host.Outcome State Fault Refusal :=
  .next (runRequest (isCommand 0x06) setPortCommand s)

/-- READ_PORT without the clear flag is executed (R166). -/
def execReadPort (s : State) : Host.Outcome State Fault Refusal :=
  .next (runRequest (isRead 0x07 false) readPortCommand s)

/-- READ_PORT with the clear flag is executed (R167). -/
def execReadPortClear (s : State) : Host.Outcome State Fault Refusal :=
  .next (runRequest (isRead 0x07 true) readPortClearCommand s)

/-- SET_SYNC is executed (R134). -/
def execSetSync (s : State) : Host.Outcome State Fault Refusal :=
  .next (runRequest (isCommand 0x15) setSyncCommand s)

end Sys2Proof.Machine
end

