-- ==== Sys2Proof/Machine/Device.lean ====
section
/-! DEFINITION. Device control (10_start_up_and_restart.md): pin reset, the start-up sweep, both restarts, and one
millisecond of time. -/

namespace Sys2Proof.Machine

/-! ## Resets (10.1 to 10.3) -/

/-- The actions of the start of a pin reset at every block (R200), with the restart count the reset gives. The
frames that await classification are abandoned (R29). What only the sweep writes stays as it is. -/
def State.startReset (s : State) (restartCount : Nat) : State :=
  let s1 := s.stopAll
  { s1 with
    rules := s1.rules.startReset
    stations := s1.stations.startReset
    meters := s1.meters.startReset
    store := { s1.store with awaiting := ⟨[], [], [], [], []⟩, clock := 0 }
    ports := s1.ports.map PortUnit.startReset
    sync := ⟨false, 20, none⟩
    agent := s1.agent.startReset restartCount
    notices := .fresh
    device := { s1.device with sweeping := false, restartMark := none, restartDue := false } }

/-- Steps 2 to 5 of the release of RESET_N (R201): STARTING, STARTUP_DISCARDS 0, the sweep, the clocks and windows. -/
def State.beginStarting (s : State) : State :=
  { s with
    stations := s.stations.startClocks
    store := { s.store with clock := 0 }
    ports := s.ports.map (fun u => { u with errorWindow := Config.windowMs })
    agent := { s.agent with startupDiscards := 0 }
    device := { s.device with state := .starting, sweeping := true, resetHeld := false } }

/-- The results of the start-up sweep (R202). -/
def State.sweep (s : State) : State :=
  { s with
    rules := { s.rules with bankA := .swept, bankB := .swept }
    stations := { s.stations with entries := [] }
    meters := { s.meters with meters := List.replicate Config.meterCount .zero }
    store := { s.store with slots := [], held := ⟨0, 0, 0, 0, 0⟩ }
    agent := { s.agent with cache := [] } }

/-! ## Restart commands (8.9) -/

/-- The kind byte of RESTART: 0 FULL, 1 TRAFFIC, and nothing else (R182, R214). -/
def restartKindOk (payload : List Byte) : Bool := decide (argByte payload 0 ≤ 1)

/-- RESTART FULL (R183, R204): RESTARTING; the reply gives the restart count before the increment. -/
def restartFullCommand (r : Request) (payload : List Byte) (s : State) : Answer :=
  withClaim r s <| withForm payload 1 s <|
    if restartKindOk payload then
      ⟨.ok, byte s.agent.restartCount, { s with device := { s.device with state := .restarting } }⟩
    else refuse .badArg s

/-- RESTART TRAFFIC at every block (R207). -/
def State.restartTraffic (s : State) : State :=
  let s1 := s.stopAll
  { s1 with
    rules := s1.rules.restartTraffic
    stations := s1.stations.restartTraffic
    meters := { s1.meters with meters := s1.meters.meters.map (Meter.restartTraffic s1.meters.gateOpen) }
    ports := s1.ports.map PortUnit.restartTraffic
    notices := s1.notices.restartTraffic }

/-- RESTART TRAFFIC (R182, R207). -/
def restartTrafficCommand (r : Request) (payload : List Byte) (s : State) : Answer :=
  withClaim r s <| withForm payload 1 s <|
    if restartKindOk payload then ⟨.ok, [], s.restartTraffic⟩ else refuse .badArg s

/-- The execution of RESTART FULL: as every execution, and the reply of a restart that is carried out is marked, or
its loss reported (R148, R183, R204). -/
def runRestartFull (s : State) : State :=
  match s.executable with
  | none => s
  | some (r, f) =>
    if isForm 0x18 1 f.payload then
      let a := restartFullCommand r f.payload s
      completeRequest r f (decide (a.status = .ok)) a
    else s

/-! ## Events -/

/-- RESET_N_LOW (R200): no further effect while RESET_N is already low. -/
def execResetNLow (s : State) : Host.Outcome State Fault Refusal :=
  .next (if s.device.resetHeld then s
    else
      let s1 := s.startReset 0
      { s1 with device := { s1.device with resetHeld := true } })

/-- RESET_N_RELEASE (R201): it occurs only while RESET_N is low. The straps give the station address (R137). -/
def execResetNRelease (straps : BitVec 6) (s : State) : Host.Outcome State Fault Refusal :=
  .next (if s.device.resetHeld then
      let s1 := s.beginStarting
      { s1 with
        agent := { s1.agent with address := Config.addressBase + straps.setWidth 16 }
        ports := s1.ports.map (fun u => { u with egress := { u.egress with line := .idleFill } }) }
    else s)

/-- SWEEP_COMPLETE (R202): it occurs only while the sweep runs. -/
def execSweepComplete (s : State) : Host.Outcome State Fault Refusal :=
  .next (if s.device.resetHeld = false ∧ s.device.sweeping then
      let s1 := s.sweep
      { s1 with device := { s1.device with state := .running, sweeping := false } }
    else s)

/-- RESTART_POINT (R205): it occurs only after the report of R111. The straps are not sampled and the restart count
increments. -/
def execRestartPoint (s : State) : Host.Outcome State Fault Refusal :=
  .next (if s.device.resetHeld = false ∧ s.device.restartDue then
      (s.startReset (satNext 255 s.agent.restartCount)).beginStarting
    else s)

/-- RESTART FULL is executed (R204). -/
def execRestartFull (s : State) : Host.Outcome State Fault Refusal :=
  .next (runRestartFull s)

/-- RESTART TRAFFIC is executed (R207). -/
def execRestartTraffic (s : State) : Host.Outcome State Fault Refusal :=
  .next (runRequest (isForm 0x18 0) restartTrafficCommand s)

/-! ## Time -/

/-- A timer that runs counts down by a millisecond; at 0 it waits for its expiry event. -/
def countDown (t : Option Nat) : Option Nat := t.map (fun n => n - 1)

/-- A period timer counts down and waits for its expiry at 1, since it holds 1 ms to one period (4.1). -/
def countPeriod (t : Option Nat) : Option Nat := t.map (fun n => max 1 (n - 1))

/-- A claim's timer counts down. -/
def Claim.countDown (c : Claim) : Claim := { c with remaining := c.remaining - 1 }

/-- A port's block timer and error window count down. -/
def PortUnit.countDown (u : PortUnit) : PortUnit :=
  { u with blockTimer := Machine.countDown u.blockTimer, errorWindow := u.errorWindow - 1 }

/-- One millisecond passes: the store clock advances, and every running timer and interval counts down. No expiry is
taken; expiries are events of their own. While RESET_N is low no timer runs (R200). DESIGN CHOICE, log entry 1. -/
def State.millisecond (s : State) : State :=
  if s.device.resetHeld then s
  else
    { s with
      stations :=
        { s.stations with
          agingClock := s.stations.agingClock - 1
          moveWindow := s.stations.moveWindow - 1 }
      meters :=
        { s.meters with meters := s.meters.meters.map (fun m => { m with timer := countPeriod m.timer }) }
      store := { s.store with clock := s.store.clock + 1 }
      ports := s.ports.map PortUnit.countDown
      sync := { s.sync with timer := countDown s.sync.timer }
      agent := { s.agent with claim := s.agent.claim.map Claim.countDown }
      notices :=
        { s.notices with
          sources := s.notices.sources.map (fun x => { x with timer := countDown x.timer }) } }

end Sys2Proof.Machine
end

