-- ==== Sys2Proof/Machine/Dispatch.lean ====
section
/-! DEFINITION. The one match over the events: each arm calls its meaning. -/

namespace Sys2Proof.Machine

open Sys2Proof

/-- What an event does to everything but the queue `pending`. -/
def exec (i : Instr) (s : State) : Host.Outcome State Fault Refusal :=
  match i with
  | .resetNLow => Sys2Proof.Machine.execResetNLow s
  | .resetNRelease straps => Sys2Proof.Machine.execResetNRelease straps s
  | .sweepComplete => Sys2Proof.Machine.execSweepComplete s
  | .restartPoint => Sys2Proof.Machine.execRestartPoint s
  | .endOfFrame port data ending => Sys2Proof.Machine.execEndOfFrame port data ending s
  | .classification port => Sys2Proof.Machine.execClassification port s
  | .transmitComplete port => Sys2Proof.Machine.execTransmitComplete port s
  | .copyComplete => Sys2Proof.Machine.execCopyComplete s
  | .claimExpiry => Sys2Proof.Machine.execClaimExpiry s
  | .syncTimerExpiry => Sys2Proof.Machine.execSyncTimerExpiry s
  | .blockTimerExpiry port => Sys2Proof.Machine.execBlockTimerExpiry port s
  | .errorWindowExpiry port => Sys2Proof.Machine.execErrorWindowExpiry port s
  | .moveWindowExpiry => Sys2Proof.Machine.execMoveWindowExpiry s
  | .agingTick => Sys2Proof.Machine.execAgingTick s
  | .periodExpiry meter => Sys2Proof.Machine.execPeriodExpiry meter s
  | .resendTimerExpiry source => Sys2Proof.Machine.execResendTimerExpiry source s
  | .noticeService => Sys2Proof.Machine.execNoticeService s
  | .identify => Sys2Proof.Machine.execIdentify s
  | .readStatus => Sys2Proof.Machine.execReadStatus s
  | .claim => Sys2Proof.Machine.execClaim s
  | .release => Sys2Proof.Machine.execRelease s
  | .setAddress => Sys2Proof.Machine.execSetAddress s
  | .setPort => Sys2Proof.Machine.execSetPort s
  | .readPort => Sys2Proof.Machine.execReadPort s
  | .readPortClear => Sys2Proof.Machine.execReadPortClear s
  | .writeBankHead => Sys2Proof.Machine.execWriteBankHead s
  | .writeRule => Sys2Proof.Machine.execWriteRule s
  | .clearRule => Sys2Proof.Machine.execClearRule s
  | .readRule => Sys2Proof.Machine.execReadRule s
  | .copyBank => Sys2Proof.Machine.execCopyBank s
  | .switchBank => Sys2Proof.Machine.execSwitchBank s
  | .writeStation => Sys2Proof.Machine.execWriteStation s
  | .deleteStation => Sys2Proof.Machine.execDeleteStation s
  | .flushStations => Sys2Proof.Machine.execFlushStations s
  | .readStationAddress => Sys2Proof.Machine.execReadStationAddress s
  | .readStationIndex => Sys2Proof.Machine.execReadStationIndex s
  | .setAging => Sys2Proof.Machine.execSetAging s
  | .setMeter => Sys2Proof.Machine.execSetMeter s
  | .rearmMeter => Sys2Proof.Machine.execRearmMeter s
  | .readMeter => Sys2Proof.Machine.execReadMeter s
  | .readMeterClear => Sys2Proof.Machine.execReadMeterClear s
  | .setSync => Sys2Proof.Machine.execSetSync s
  | .setNotice => Sys2Proof.Machine.execSetNotice s
  | .noticeAck => Sys2Proof.Machine.execNoticeAck s
  | .restartFull => Sys2Proof.Machine.execRestartFull s
  | .restartTraffic => Sys2Proof.Machine.execRestartTraffic s
  | .unknownCommand => Sys2Proof.Machine.execUnknownCommand s
  | .startMark port => Sys2Proof.Machine.execStartMark port s

end Sys2Proof.Machine
end

