-- ==== Sys2Proof/Safety.lean ====
section
/-! DEFINITION. What the data sheet says always holds of the part, as predicates on State, and what it says an event
leaves as it was, as relations between the state before and the state after. Statements are written in these
terms. -/

namespace Sys2Proof.Safety

open Sys2Proof.Machine

/-! ## What always holds -/

/-- Every number listed is below a bound. -/
def keysBelow {α : Type} (bound : Nat) (l : List (Nat × α)) : Prop := ∀ e ∈ l, e.1 < bound

/-- The held slots are listed once each, in rising order, with numbers 0 to 383 (R89). -/
def SlotsOk (s : State) : Prop := rising s.store.slots = true ∧ keysBelow Config.slotCount s.store.slots

/-- The occupied positions of both banks are listed once each, in rising order, with numbers 0 to 127 (R1). -/
def BanksOk (s : State) : Prop :=
  (rising s.rules.bankA.positions = true ∧ keysBelow Config.positionCount s.rules.bankA.positions) ∧
    (rising s.rules.bankB.positions = true ∧ keysBelow Config.positionCount s.rules.bankB.positions)

/-- The Station Table holds at most 256 entries, in ascending order of address, no address twice (R53, R54). -/
def StationsOk (s : State) : Prop :=
  rising s.stations.entries = true ∧ s.stations.entries.length ≤ Config.stationCapacity

/-- Every credit is at most its meter's ceiling, and there are 32 meters (R72, R73). -/
def MetersOk (s : State) : Prop :=
  s.meters.meters.length = Config.meterCount ∧ ∀ m ∈ s.meters.meters, m.credit ≤ m.ceiling

/-- A meter of any mode but SINGLE is ARMED (R73). -/
def ArmOk (s : State) : Prop := ∀ m ∈ s.meters.meters, m.mode = .single ∨ m.mode = .off ∨ m.arm = .armed

/-- The gate is OPEN exactly while the lock is LOCKED, and the lock is LOCKED only while T is ACTIVE (R80). -/
def GateOk (s : State) : Prop :=
  s.meters.gateOpen = s.sync.locked ∧ (s.sync.locked = true → (s.port .t).state = .active)

/-- The port state equals the commanded mode except while BLOCKED; T is never BLOCKED; a BLOCKED branch was commanded
LISTEN or ACTIVE (R120, R123 note 4, R127). -/
def PortStatesOk (s : State) : Prop :=
  (∀ p, (s.port p).state = (s.port p).commanded.toState ∨
    ((s.port p).state = .blocked ∧ (s.port p).commanded ≠ .disabled)) ∧
  (s.port .t).state ≠ .blocked

/-- No class queue holds more than 32 entries (R97). -/
def QueuesOk (s : State) : Prop :=
  ∀ p, (s.port p).egress.q3.length ≤ Config.queueDepth ∧ (s.port p).egress.q2.length ≤ Config.queueDepth ∧
    (s.port p).egress.q1.length ≤ Config.queueDepth ∧ (s.port p).egress.q0.length ≤ Config.queueDepth

/-- The request queue holds at most 4 requests and the reply cache at most 8 entries (R143, R149). -/
def AgentDepthsOk (s : State) : Prop :=
  s.agent.queue.length ≤ Config.requestDepth ∧ s.agent.cache.length ≤ Config.cacheDepth

/-- The keys of the reply cache, the execution position and the request queue. -/
def agentKeys (a : Agent) : List (Word × Word) :=
  a.cache.map (fun e => (e.source, e.id)) ++ a.executing.toList.map (fun r => (r.source, r.id))
    ++ a.queue.map (fun r => (r.source, r.id))

/-- The reply cache, the request queue and the execution position together never hold one key twice (R149). -/
def KeysOk (s : State) : Prop := (agentKeys s.agent).Nodup

/-- The part's station address is in 0001h to EFFFh (R137). -/
def AddressOk (s : State) : Prop := isStation s.agent.address = true

/-- No two sources with S set have the same current sequence, and none has sequence 0 (R188). -/
def SequencesOk (s : State) : Prop :=
  (∀ q r x y, (s.source q).record = some x → (s.source r).record = some y → x.sequence = y.sequence → q = r) ∧
  (∀ q x, (s.source q).record = some x → 1 ≤ x.sequence ∧ x.sequence ≤ 255)

/-- A round member's queue is not empty, and the shares are at least 1 (R101, R102, R103). -/
def EgressOk (e : Egress) : Prop :=
  (e.round.left2 ≠ 0 → e.q2 ≠ []) ∧ (e.round.left1 ≠ 0 → e.q1 ≠ []) ∧ (e.round.left0 ≠ 0 → e.q0 ≠ []) ∧
  1 ≤ e.share2 ∧ 1 ≤ e.share1 ∧ 1 ≤ e.share0

/-- Between events a port whose transmitter is IDLE has all four queues empty (R99, R109). -/
def IdleIsEmpty (s : State) : Prop :=
  ∀ p, EgressOk (s.port p).egress ∧ ((s.port p).egress.transmitter = none → (s.port p).egress.queued = 0)

/-- A port out of service has an IDLE receiver, an IDLE transmitter and empty queues (R109, R122). -/
def OutOfServiceOk (s : State) : Prop :=
  ∀ p, s.inService p = false →
    (s.port p).receiver = .idle ∧ (s.port p).egress.transmitter = none ∧ (s.port p).egress.queued = 0

/-- The sync timer runs exactly while the lock is LOCKED (R131 to R133). -/
def SyncTimerOk (s : State) : Prop := s.sync.timer.isSome = s.sync.locked

/-- A period timer runs exactly in a CONTINUOUS meter and, while the gate is OPEN, in a GATED meter (R77 to R79, R82). -/
def PeriodTimersOk (s : State) : Prop :=
  ∀ m ∈ s.meters.meters,
    (m.timer.isSome = true ↔ m.mode = .continuous ∨ (m.mode = .gated ∧ s.meters.gateOpen = true))

/-- The held count of a port is the number of held slots with its arrival attribute (R93). -/
def HeldOk (s : State) : Prop :=
  ∀ p, s.store.held.get p = s.store.slots.countP (fun e => decide (e.2.origin = .port p))

/-! ## References (R91) -/

/-- The slot numbers an egress queues. -/
def queuedSlots (e : Egress) : List Nat := e.q3 ++ e.q2 ++ e.q1 ++ e.q0

/-- How often the egress of port `p` refers to slot `n`: its queue entries and its transmitter. -/
def egressRefs (s : State) (p : Port) (n : Nat) : Nat :=
  (queuedSlots (s.port p).egress).count n + (s.port p).egress.transmitter.toList.count n

/-- How often the five egresses refer to slot `n`. -/
def allEgressRefs (s : State) (n : Nat) : Nat :=
  egressRefs s .t n + egressRefs s .b1 n + egressRefs s .b2 n + egressRefs s .b3 n + egressRefs s .b4 n

/-- From `s` to `t` the Frame Store has given up `refs n` references to each slot `n` and no other (R96, R109, R110): a slot
that loses its last is free, any other stays as it was with so many references less; the held counts follow (R93); and a
slot offer is due when one was, or when a slot became free. -/
structure ReferencesReleased (refs : Nat → Nat) (s t : State) : Prop where
  slots : ∀ n, t.slot n =
    match s.slot n with
    | none => none
    | some x =>
      if refs n = 0 then some x
      else if x.refs ≤ refs n then none
      else some { x with refs := x.refs - refs n }
  held : HeldOk t
  offer : t.notices.offerDue = true ↔
    s.notices.offerDue = true ∨ ∃ n, (s.slot n).isSome = true ∧ t.slot n = none

/-- How often port `p` refers to slot `n`: its egress, and its frames that await classification. -/
def portHolds (s : State) (p : Port) (n : Nat) : Nat :=
  egressRefs s p n + (s.store.awaiting.get p).count n

/-- The number of holders of slot `n` (R91). -/
def holders (s : State) (n : Nat) : Nat :=
  portHolds s .t n + portHolds s .b1 n + portHolds s .b2 n + portHolds s .b3 n + portHolds s .b4 n +
    (s.agent.queue.map Request.slot).count n + (s.agent.executing.toList.map Request.slot).count n

/-- The reference count of slot `n`; 0 when it is free. -/
def refCount (s : State) (n : Nat) : Nat :=
  match s.slot n with
  | none => 0
  | some x => x.refs

/-- Between events every slot's reference count is the number of its holders, and a held slot has one (R89, R91). From the
start of a reset to the end of the sweep there are no holders, and the slots wait for the sweep (R113). -/
def RefsOk (s : State) : Prop :=
  if s.device.resetHeld = true ∨ s.device.sweeping = true then
    (∀ n, holders s n = 0) ∧ s.notices.target = 0 ∧ (∀ q, (s.source q).record = none) ∧
      (s.device.resetHeld = false → s.device.state = .starting)
  else ∀ n, refCount s n = holders s n ∧ ∀ x, s.slot n = some x → 1 ≤ x.refs

/-! ## Legal frames and rules -/

/-- A frame that validation lets in (R117, R118). -/
def FrameOk (f : Frame) : Prop :=
  f.payload.length ≤ 64 ∧ f.dest ≠ 0 ∧ isStation f.src = true ∧ f.check = crc f.body

/-- Test 6 of the legality check (R16). -/
def TermOk (t : Term) : Prop := t.selector = .payload → t.offset.toNat % 2 = 0 ∧ t.offset.toNat ≤ 62

/-- Tests 8, 9, 11 and 12 of the legality check (R16). -/
def ActionOk (a : Action) : Prop :=
  (a.verdict = .steer → a.steerPort.toNat ≤ 4) ∧ (a.classPresent = true → a.classValue.toNat ≤ 3) ∧
    (a.tagOp = .set → a.tagValue.toNat ≤ 4095) ∧ (a.meterPresent = true → a.meter.toNat ≤ 31)

/-- A rule that passes the legality check (R16). -/
def RuleOk (r : Rule) : Prop :=
  1 ≤ r.terms.length ∧ r.terms.length ≤ 4 ∧
    r.actions.length = (if r.mode = .firstOf then r.terms.length else 1) ∧ r.arrival ≠ 0 ∧
    (∀ t ∈ r.terms, TermOk t) ∧ ∀ a ∈ r.actions, ActionOk a

/-- Every rule that either bank holds is legal (R15, R16). -/
def RulesOk (s : State) : Prop :=
  (∀ e ∈ s.rules.bankA.positions, RuleOk e.2.rule) ∧ ∀ e ∈ s.rules.bankB.positions, RuleOk e.2.rule

/-! ## The rule record and the bank header by their bits (R16, R213) -/

/-- One test of the legality check: whether it passes, and the detail that its failure gives. -/
structure RuleTest where
  passes : Bool
  detail : RuleDetail

/-- Tests 5 and 6, on the six bytes from offset `o` on, term `k` of a record. -/
def termTests (record : List Byte) (k o : Nat) : List RuleTest :=
  let selector := (byteAt record o).toNat % 16
  let offset := (byteAt record (o + 1)).toNat
  [⟨decide (selector ≤ 8), ⟨5, k⟩⟩, ⟨decide (selector = 8 → offset % 2 = 0 ∧ offset ≤ 62), ⟨6, k⟩⟩]

/-- Tests 7 to 12, on the six bytes from offset `o` on, action `k` of a record. -/
def actionTests (record : List Byte) (k o : Nat) : List RuleTest :=
  let flags := (byteAt record o).toNat
  let verdict := flags % 4
  let tagOp := flags / 4 % 4
  let portAndClass := (byteAt record (o + 1)).toNat
  [⟨decide (verdict ≠ 3), ⟨7, k⟩⟩, ⟨decide (verdict = 2 → portAndClass % 16 ≤ 4), ⟨8, k⟩⟩,
    ⟨decide (flags / 64 % 2 = 1 → portAndClass / 16 ≤ 3), ⟨9, k⟩⟩, ⟨decide (tagOp ≠ 3), ⟨10, k⟩⟩,
    ⟨decide (tagOp = 1 → (byteAt record (o + 4)).toNat * 256 + (byteAt record (o + 5)).toNat ≤ 4095), ⟨11, k⟩⟩,
    ⟨decide (flags / 128 = 1 → (byteAt record (o + 3)).toNat ≤ 31), ⟨12, k⟩⟩]

/-- The tests of R16 in their order: the rule's, then each term's, then each action's. -/
def ruleTests (record : List Byte) : List RuleTest :=
  let head := (byteAt record 0).toNat
  let terms := head / 8 % 8
  let actions := head % 8
  [⟨decide (head / 64 ≠ 3), ⟨1, 0⟩⟩, ⟨decide (1 ≤ terms ∧ terms ≤ 4), ⟨2, 0⟩⟩,
      ⟨decide (actions = if head / 64 = 2 then terms else 1), ⟨3, 0⟩⟩,
      ⟨decide ((byteAt record 1).toNat % 32 ≠ 0), ⟨4, 0⟩⟩] ++
    (List.range terms).flatMap (fun k => termTests record k (2 + 6 * k)) ++
    (List.range actions).flatMap (fun k => actionTests record k (2 + 6 * terms + 6 * k))

/-- The detail of the first test of R16 that a record fails; none when it passes all. -/
def firstFailure (record : List Byte) : Option RuleDetail :=
  ((ruleTests record).find? (fun x => !x.passes)).map RuleTest.detail

/-- The byte of a bank header as a number: the default verdict in bits 1 and 0, the observation port in bits 6 to 4, 7
for none, and nothing else (R213). -/
def headerCode (h : Header) : Nat :=
  (match h.verdict with | .pass => 0 | .drop => 1) +
    16 * (match h.observation with | none => 7 | some p => portNumber p)

/-! ## Selection (R100 to R104) -/

/-- The selection takes the head `n` of class queue `c`, with `rest` behind it: class 3 first, in whatever round; else
the highest member of the round `r` that the selection serves, the open one or, when none is open, a new one of the classes
that wait. -/
def TakesHead (e : Egress) (c : BitVec 2) (n : Nat) (rest : List Nat) (r : Round) : Prop :=
  e.queue c = n :: rest ∧
    ((c = 3 ∧ r = e.round) ∨
      (c ≠ 3 ∧ e.q3 = [] ∧
        r = (if e.round = ⟨0, 0, 0⟩ then
          ⟨if e.q2 = [] then 0 else e.share2, if e.q1 = [] then 0 else e.share1, if e.q0 = [] then 0 else e.share0⟩
          else e.round) ∧
        r.left c ≠ 0 ∧ ∀ d : BitVec 2, c.toNat < d.toNat → d ≠ 3 → r.left d = 0))

/-- The frame in slot `n` is older than the residency limit of port `p` (R104). -/
def staleAt (s : State) (p : Port) (n : Nat) : Prop :=
  ∃ x, s.slot n = some x ∧ (s.port p).egress.residency ≠ 0 ∧
    (s.port p).egress.residency < s.store.clock - x.accepted

/-- The frame in slot `n` is not older than the residency limit of port `p`, or there is no limit (R104). -/
def freshAt (s : State) (p : Port) (n : Nat) : Prop :=
  ∃ x, s.slot n = some x ∧ ((s.port p).egress.residency = 0 ∨
    s.store.clock - x.accepted ≤ (s.port p).egress.residency)

/-! ## Placement at one port (R94, R98, R104, R106) -/

/-- The frame in `x` is older than the residency limit of port `p` (R104). -/
def staleNow (s : State) (p : Port) (x : Slot) : Bool :=
  decide ((s.port p).egress.residency ≠ 0 ∧ (s.port p).egress.residency < s.store.clock - x.accepted)

/-- What a reference to slot `n` that is offered to class queue `c` makes of a port unit whose transmitter is SENDING or
has nothing queued: TX_QFULL for a full queue; else the entry joins the tail, or is taken at once by an IDLE transmitter,
which sends it or, when it is stale, discards it with TX_STALE. -/
def placedUnit (u : PortUnit) (c : BitVec 2) (n : Nat) (stale : Bool) : PortUnit :=
  if 32 ≤ (u.egress.queue c).length then { u with counters := u.counters.bump .txQFull }
  else if u.egress.transmitter ≠ none then
    { u with egress := u.egress.setQueue c (u.egress.queue c ++ [n]) }
  else if stale then { u with counters := u.counters.bump .txStale }
  else { u with egress := { u.egress with transmitter := some n, line := .startMark } }

/-- After that placement the port refers to the slot. -/
def placedStands (u : PortUnit) (c : BitVec 2) (stale : Bool) : Bool :=
  decide ((u.egress.queue c).length < 32) && (u.egress.transmitter.isSome || !stale)

/-- What a frame `y` of the part's own in the claimed slot `n` makes of `s` when it is offered to class queue 3 of port
`p`: out of service, nothing; with a full queue, TX_QFULL; else the slot is held and the frame queued or sent (R94, R98,
R148, R190). -/
def ownFrameOffered (s : State) (p : Port) (n : Nat) (y : Frame) : State :=
  if s.inService p = false then s
  else
    { s with
      ports := s.ports.set p (placedUnit (s.port p) 3 n false)
      store :=
        { s.store with
          slots :=
            if 32 ≤ (s.port p).egress.q3.length then s.store.slots
            else put n ⟨y, .agent, s.store.clock, 1⟩ s.store.slots } }

/-! ## A decision carried out (R40 to R51) -/

/-- Steps 7 to 13 on the frame in slot `n`, and the release that ends the classification (R40 to R51, R96): from the part
`b`, in which slot `n` holds `x` and the frame of port `p` goes on to evaluation, to `t`. The deciding position's counter
counts; an empty target set charges its counter; the meter is consulted where the action names one and there are targets;
exceeding it, DROP empties the targets and counts RX_METERDROP, DEMOTE makes the class 0; the content is rewritten; each
target gets a reference in its class queue, the observation port a copy in class 0; the notice flag raises one RULE_HIT
with the deciding position; the classification's reference is given up. Nothing else of rules, table, Agent and lock, no
other source and no other slot changes. -/
def DecisionCarriedOut (b : State) (p : Port) (n : Nat) (x : Slot) (t : State) : Prop :=
  let d := evaluate p x.frame b
  let targets := verdictTargets b p x.frame.dest d.action
  let metered := d.action.meterPresent && decide (targets.ports ≠ [])
  let answer := b.consult d.action.meter.toNat (frameCost x.frame)
  let dropped := metered && decide (answer.1 = .exceeds .drop)
  let demoted := metered && decide (answer.1 = .exceeds .demote)
  let content :=
    if demoted then Frame.recheck { rewrite d.action x.frame with cls := 0 } else rewrite d.action x.frame
  let ports := if dropped then [] else targets.ports
  let copies (q : Port) : Bool :=
    d.action.copy && decide (d.observation = some q) && b.isActive q && decide (q ≠ p) && decide (q ∉ ports)
  let references :=
    ports.countP (fun q => placedStands (b.port q) content.cls (staleNow b q x)) +
      allPorts.countP (fun q => copies q && placedStands (b.port q) 0 (staleNow b q x)) + (x.refs - 1)
  t.rules = (countHit d b).rules ∧ t.stations = b.stations ∧ t.agent = b.agent ∧ t.sync = b.sync ∧
  t.meters = (if metered then answer.2.meters else b.meters) ∧
  t.source .meterSpent = (if metered then answer.2.source .meterSpent else b.source .meterSpent) ∧
  t.source .ruleHit =
    (match d.position with
      | none => b.source .ruleHit
      | some k =>
        if d.action.notice then
          { b.source .ruleHit with
            pending := true
            occurrences := min 255 ((b.source .ruleHit).occurrences + 1)
            detail := BitVec.ofNat 16 k }
        else b.source .ruleHit) ∧
  (∀ r, r ≠ .meterSpent → r ≠ .ruleHit → t.source r = b.source r) ∧
  t.port p =
    (match targets.charge with
      | some c => { b.port p with counters := (b.port p).counters.bump c }
      | none => if dropped then { b.port p with counters := (b.port p).counters.bump .rxMeterDrop } else b.port p) ∧
  (∀ q, q ≠ p → t.port q =
    if q ∈ ports then placedUnit (b.port q) content.cls n (staleNow b q x)
    else if copies q then placedUnit (b.port q) 0 n (staleNow b q x)
    else b.port q) ∧
  t.slot n = (if references = 0 then none else some { x with frame := content, refs := references }) ∧
  ∀ m, m ≠ n → t.slot m = b.slot m

/-- The transmitter of port `p` is SENDING, or nothing is queued there: what `IdleIsEmpty` says of one port. -/
def settledAt (s : State) (p : Port) : Prop :=
  (s.port p).egress.transmitter = none → (s.port p).egress.queued = 0

/-! ## The Notice Unit (R186 to R191) -/

/-- A send of source `q` waits to be made: a resend that is due, or the first send of an eligible source. -/
def Candidate (s : State) (q : Source) : Prop :=
  ((s.source q).resendDue = true ∧ (s.source q).record ≠ none) ∨
    ((s.source q).resendDue = false ∧ eligible s q = true)

/-- A service event of the Notice Unit is due and serves: in READY for any cause, in WAITING for a slot offer. -/
def serviceActs (s : State) : Prop :=
  (s.notices.waiting = false ∧ (s.notices.causeDue = true ∨ s.notices.offerDue = true)) ∨ s.notices.offerDue = true

/-- `s` with a slot offer due. -/
def withOffer (s : State) : State := { s with notices := { s.notices with offerDue := true } }

/-- Some source with S set has the current sequence `n`. -/
def SequenceTaken (s : State) (n : Nat) : Prop := ∃ q x, (s.source q).record = some x ∧ x.sequence = n

/-- The sequence after `n`, 255 being followed by 1. -/
def followingSequence (n : Nat) : Nat := if n < 255 then n + 1 else 1

/-- The sequence `k` places after `n`. -/
def sequenceAfter (n : Nat) : Nat → Nat
  | 0 => n
  | k + 1 => followingSequence (sequenceAfter n k)

/-- `n` is the first sequence after the counter's, 255 being followed by 1, that no source in service has. -/
def NextSequence (s : State) (n : Nat) : Prop :=
  ∃ k, n = sequenceAfter s.notices.sequence (k + 1) ∧ ¬ SequenceTaken s n ∧
    ∀ j, j < k → SequenceTaken s (sequenceAfter s.notices.sequence (j + 1))

/-- `y` is the notice frame that the part `s` builds for the record `x` of source `q` (R189, R215). -/
def IsNotice (s : State) (q : Source) (x : NoticeRecord) (y : Frame) : Prop :=
  y.dest = s.notices.target ∧ y.src = s.agent.address ∧ y.kind = .notice ∧ y.cls = 3 ∧ y.tag = none ∧ y.hops = 15 ∧
    y.seq = BitVec.ofNat 8 x.sequence ∧ y.check = crc y.body ∧
    y.payload =
      byte x.sequence ++ byte (sourceRank q) ++ byte x.attempt ++ byte x.sent ++ wordBytes x.detail ++
        [pendingSet s, inServiceSet s]

/-! ## What an event leaves as it was -/

/-- Two port units agree in everything but egress and counters. -/
def SameUnit (u v : PortUnit) : Prop := v = { u with egress := v.egress, counters := v.counters }

/-- Two egresses agree in their settings (R103, R105). -/
def SameEgressSettings (e g : Egress) : Prop :=
  g.share2 = e.share2 ∧ g.share1 = e.share1 ∧ g.share0 = e.share0 ∧ g.residency = e.residency

/-- From `s` to `t` only the egress of port `p` has worked: its queues, round, transmitter and counters, the slots it
referred to, a slot offer, and the end of the RESTART FULL reply's stay. `touched` lists the slots that it may have
released or written. -/
structure EgressOnly (p : Port) (touched : List Nat) (s t : State) : Prop where
  rules : t.rules = s.rules
  stations : t.stations = s.stations
  meters : t.meters = s.meters
  sync : t.sync = s.sync
  agent : t.agent = s.agent
  choices : t.choices = s.choices
  pending : t.pending = s.pending
  clock : t.store.clock = s.store.clock
  awaiting : t.store.awaiting = s.store.awaiting
  notices : t.notices = { s.notices with offerDue := t.notices.offerDue }
  device : t.device = { s.device with restartMark := t.device.restartMark, restartDue := t.device.restartDue }
  unmarked : s.device.restartMark = none → t.device = s.device
  others : ∀ q, q ≠ p → t.port q = s.port q
  unit : SameUnit (s.port p) (t.port p)
  settings : SameEgressSettings (s.port p).egress (t.port p).egress
  slots : ∀ n, n ∉ touched → t.slot n = s.slot n

/-- The claim after a request of this station has been executed: the holder's timer runs for the full duration
(R151). -/
def renewedClaim (station : Word) : Option Claim → Option Claim
  | none => none
  | some c => if c.holder = station then some { c with remaining := c.duration * 1000 } else some c

/-- The reply to this port cannot be placed: no slot is free, the port is out of service, or class queue 3 is full
(R148). -/
def replyCannotBePlaced (s : State) (p : Port) : Prop :=
  s.lowestFreeSlot = none ∨ s.inService p = false ∨ s.queueFull p 3 = true

/-- The oldest frame of port `p` that awaits classification stands in slot `n`, which holds `x` and has no other holder;
`rest` are the frames behind it (R28, R30). -/
structure AwaitsAlone (s : State) (p : Port) (n : Nat) (rest : List Nat) (x : Slot) : Prop where
  released : s.device.resetHeld = false
  oldest : s.store.awaiting.get p = n :: rest
  slot : s.slot n = some x
  alone : x.refs = 1
  arrival : x.origin = .port p

/-- The frame in slot `n` of port `p` is released at the end of its classification: the slot is free, the held count one
lower, and a slot offer is due (R28, R93, R96). -/
def discarded (s : State) (p : Port) (n : Nat) (rest : List Nat) : State :=
  { s with
    store :=
      { s.store with
        slots := remove n s.store.slots
        held := s.store.held.set p (s.store.held.get p - 1)
        awaiting := s.store.awaiting.set p rest }
    notices := { s.notices with offerDue := true } }

/-- What a CLASSIFICATION on port `p` leaves as it was, whatever becomes of the frame (R28, R51, R52): the rules and
headers, the pinned stations and the table's settings, every meter's configuration, every port's state and settings, the
claim, the cache and the address, the notice settings and records, the device state. -/
structure ClassificationFrame (p : Port) (s t : State) : Prop where
  working : t.rules.working = s.rules.working
  generation : t.rules.generation = s.rules.generation
  copying : t.rules.copying = s.rules.copying
  headers : t.rules.bankA.header = s.rules.bankA.header ∧ t.rules.bankB.header = s.rules.bankB.header
  standby : t.rules.bank s.rules.standby = s.rules.bank s.rules.standby
  ruleRecords : ∀ k, (lookup k (t.rules.bank s.rules.working).positions).map Position.rule =
    (lookup k (s.rules.bank s.rules.working).positions).map Position.rule
  pinned : ∀ a e, e.kind = .pinned → (t.station a = some e ↔ s.station a = some e)
  ageLimit : t.stations.ageLimit = s.stations.ageLimit
  threshold : t.stations.threshold = s.stations.threshold
  clocks : t.stations.agingClock = s.stations.agingClock ∧ t.stations.moveWindow = s.stations.moveWindow
  configurations : ∀ k, (t.meter k).mode = (s.meter k).mode ∧ (t.meter k).ceiling = (s.meter k).ceiling ∧
    (t.meter k).refill = (s.meter k).refill ∧ (t.meter k).period = (s.meter k).period ∧
    (t.meter k).exceed = (s.meter k).exceed ∧ (t.meter k).trigger = (s.meter k).trigger
  timeout : t.sync.timeout = s.sync.timeout
  units : ∀ q, SameUnit (s.port q) (t.port q)
  settings : ∀ q, SameEgressSettings (s.port q).egress (t.port q).egress
  address : t.agent.address = s.agent.address
  cache : t.agent.cache = s.agent.cache
  claim : t.agent.claim = s.agent.claim
  restartCount : t.agent.restartCount = s.agent.restartCount
  noticeUnit : t.notices.target = s.notices.target ∧ t.notices.port = s.notices.port ∧
    t.notices.interval = s.notices.interval ∧ t.notices.sequence = s.notices.sequence ∧
    t.notices.waiting = s.notices.waiting ∧ t.notices.lost = s.notices.lost ∧ t.notices.deferred = s.notices.deferred
  records : ∀ q, (t.source q).enabled = (s.source q).enabled ∧ (t.source q).record = (s.source q).record ∧
    (t.source q).timer = (s.source q).timer ∧ (t.source q).resendDue = (s.source q).resendDue
  device : t.device.state = s.device.state ∧ t.device.sweeping = s.device.sweeping ∧
    t.device.resetHeld = s.device.resetHeld
  clock : t.store.clock = s.store.clock
  otherAwaiting : ∀ q, q ≠ p → t.store.awaiting.get q = s.store.awaiting.get q
  choices : t.choices = s.choices
  pending : t.pending = s.pending

/-- What steps 4 to 6 of R145 make of `s`, the part after the command of request `r`: the holder's timer renewed, the
reply placed or lost at the arrival port, the request's slot released, the next request taken; nothing else. -/
structure ExecutionFrame (r : Request) (s t : State) : Prop where
  rules : t.rules = s.rules
  stations : t.stations = s.stations
  meters : t.meters = s.meters
  sync : t.sync = s.sync
  choices : t.choices = s.choices
  pending : t.pending = s.pending
  clock : t.store.clock = s.store.clock
  awaiting : t.store.awaiting = s.store.awaiting
  notices : t.notices = { s.notices with offerDue := t.notices.offerDue }
  device : s.device.restartMark = none → t.device = s.device
  others : ∀ q, q ≠ r.port → t.port q = s.port q
  unit : SameUnit (s.port r.port) (t.port r.port)
  settings : SameEgressSettings (s.port r.port).egress (t.port r.port).egress
  slots : ∀ n, n ≠ r.slot → n ∉ queuedSlots (s.port r.port).egress → s.lowestFreeSlot ≠ some n → t.slot n = s.slot n
  address : t.agent.address = s.agent.address
  restartCount : t.agent.restartCount = s.agent.restartCount
  startupDiscards : t.agent.startupDiscards = s.agent.startupDiscards
  reqMalformed : t.agent.reqMalformed = s.agent.reqMalformed
  reqDuplicate : t.agent.reqDuplicate = s.agent.reqDuplicate
  reqDropped : t.agent.reqDropped = s.agent.reqDropped
  replyLost : (replyCannotBePlaced s r.port → t.agent.replyLost = s.agent.replyLost + 1) ∧
    (¬ replyCannotBePlaced s r.port → t.agent.replyLost = s.agent.replyLost)
  claim : t.agent.claim = renewedClaim r.source s.agent.claim
  executing : t.agent.executing = s.agent.queue.head?
  queue : t.agent.queue = s.agent.queue.tail

/-- The reply with this status and these results has entered the cache of `t`, after the entries of `s`, of which the
oldest left when there were eight (R147, R149). The head carries the generation of `t`. -/
def Answered (s t : State) (r : Request) (f : Frame) (st : Status) (results : List Byte) : Prop :=
  ∃ reply : Frame,
    t.agent.cache = (s.agent.cache ++ [(⟨r.source, r.id, reply⟩ : CacheEntry)]).drop (s.agent.cache.length + 1 - Config.cacheDepth) ∧
    reply = ownFrame r.source t.agent.address .reply f.seq
      (wordBytes r.id ++ [commandCode f.payload, statusCode st] ++ wordBytes t.rules.generation ++ results)

/-- The request stands in the execution position of `s` and its execution can be taken (R144, R145). -/
def Executing (s : State) (r : Request) (f : Frame) : Prop := s.executable = some (r, f)

/-- The request carries this command code, no must-be-zero flag, and `n` bytes of arguments (R158, R212). -/
def Asks (f : Frame) (code : Byte) (n : Nat) : Prop := commandCode f.payload = code ∧ formOk f.payload n = true

/-- The execution event `i` is taken whole: it answers a next state, in which the part stands as the command left it
(`s'`), but for steps 4 to 6 of R145; the reply carries this status and these results. -/
def Completes (i : Instr) (s s' : State) (r : Request) (f : Frame) (st : Status) (results : List Byte) : Prop :=
  ∃ t, exec i s = .next t ∧ ExecutionFrame r s' t ∧ Answered s' t r f st results

/-- The commands that need the edit claim, each with its code and the bytes of arguments that its form check asks for; a
clearing read and RESTART are told apart by the request (R153, R158, R214). -/
def claimCommands : List (Instr × Byte × Nat) :=
  [(.setAddress, 0x05, 2), (.setPort, 0x06, 11), (.writeBankHead, 0x08, 1), (.writeRule, 0x0A, 3),
    (.clearRule, 0x0B, 1), (.copyBank, 0x0D, 0), (.switchBank, 0x0E, 2), (.writeStation, 0x0F, 3),
    (.deleteStation, 0x10, 2), (.flushStations, 0x11, 1), (.setAging, 0x12, 3), (.rearmMeter, 0x13, 1),
    (.setSync, 0x15, 1), (.setNotice, 0x16, 5), (.setMeter, 0x19, 10)]

/-- The commands of one form that need no claim of the holder, with their codes and bytes of arguments (R153, R158,
R214). -/
def openCommands : List (Instr × Byte × Nat) :=
  [(.identify, 0x01, 0), (.readStatus, 0x02, 0), (.claim, 0x03, 1), (.release, 0x04, 0), (.readRule, 0x0C, 2)]

/-- The reads with a clear flag: the plain read, the clearing read, their code and bytes of arguments (R153, R166,
R167, R177). -/
def readCommands : List (Instr × Instr × Byte × Nat) :=
  [(.readPort, .readPortClear, 0x07, 2), (.readMeter, .readMeterClear, 0x14, 1)]

/-- The 30 rows that execute a request. -/
def executions : List Instr :=
  claimCommands.map Prod.fst ++ openCommands.map Prod.fst ++
    [.readPort, .readPortClear, .readMeter, .readMeterClear, .readStationAddress, .readStationIndex, .noticeAck,
      .restartFull, .restartTraffic, .unknownCommand]

/-- The reply to request `r` with frame `f` has been built: it stands last in the cache of `t`, under the request's key;
and it is lost, counted in REPLY_LOST, or stands, as it was cached, in an AGENT slot accepted now with one reference, at the
tail of class queue 3 of the arrival port or in its transmitter (R147 to R149). -/
def ReplyTaken (s t : State) (r : Request) (f : Frame) : Prop :=
  ∃ reply : Frame,
    t.agent.cache.getLast? = some ⟨r.source, r.id, reply⟩ ∧
    reply.dest = r.source ∧ reply.kind = .reply ∧ reply.cls = 3 ∧ reply.tag = none ∧ reply.hops = 15 ∧
    reply.seq = f.seq ∧ reply.check = crc reply.body ∧
    reply.payload.take 3 = wordBytes r.id ++ [commandCode f.payload] ∧
    (t.agent.replyLost = s.agent.replyLost + 1 ∨
      (t.agent.replyLost = s.agent.replyLost ∧ ∃ k, t.slot k = some ⟨reply, .agent, s.store.clock, 1⟩ ∧
        ((t.port r.port).egress.q3.getLast? = some k ∨ (t.port r.port).egress.transmitter = some k)))

/-- The station holds the edit claim (R153). -/
def Holder (s : State) (r : Request) : Prop := holdsClaim s r.source = true

end Sys2Proof.Safety
end

