-- ==== Sys2Proof/WellFormed.lean ====
section
/-! DEFINITION. Which terms of `Instr` name an event of this part. Ports, sources, straps and endings are
well formed by their types; the meter number is the one operand whose type is wider than the part. -/

namespace Sys2Proof

/-- A meter number names one of the 32 meters, 0 to 31 (R72, 4.1). -/
def meterNumberOk (n : Nat) : Bool := decide (n < 32)

/-- The event is one the part can take. -/
def Instr.wellFormed : Instr → Bool
  | .periodExpiry n => meterNumberOk n
  | _ => true

end Sys2Proof
end

