-- ==== Sys2Proof/Certificates/Slice0/Obligations.lean ====
section
/-! DEFINITION. The statements for the provers, one `Obligations.<Name>` for each entry of OBLIGATIONS.json. -/

open Sys2Proof Sys2Proof.Machine Sys2Proof.Safety

/-! ## The step -/

/-- A step takes the event at the front of the queue: it answers what `exec` answers for it on the part with the queue's
rest. -/
def Obligations.StepTakesFrontCommand : Prop :=
  ∀ (c : Instr) (rest : List Instr) (s : State), s.pending = c :: rest → step s = exec c { s with pending := rest }

/-- On an empty queue one millisecond passes: the model's choice (log entry 1). While RESET_N is low no timer runs
(R200). -/
def Obligations.EmptyQueueIsOneMillisecond : Prop :=
  ∀ s : State, s.pending = [] →
    (s.device.resetHeld = true → step s = .next s) ∧
    (s.device.resetHeld = false → ∃ t, step s = .next t ∧
      t.rules = s.rules ∧ t.device = s.device ∧ t.choices = s.choices ∧ t.pending = [] ∧
      t.stations =
        { s.stations with
          agingClock := s.stations.agingClock - 1
          moveWindow := s.stations.moveWindow - 1 } ∧
      t.store = { s.store with clock := s.store.clock + 1 } ∧
      (∀ p, t.port p =
        { s.port p with
          blockTimer := (s.port p).blockTimer.map (fun n => n - 1)
          errorWindow := (s.port p).errorWindow - 1 }) ∧
      t.sync = { s.sync with timer := s.sync.timer.map (fun n => n - 1) } ∧
      t.meters =
        { s.meters with
          meters := s.meters.meters.map (fun m => { m with timer := m.timer.map (fun n => max 1 (n - 1)) }) } ∧
      t.agent = { s.agent with claim := s.agent.claim.map (fun c => { c with remaining := c.remaining - 1 }) } ∧
      t.notices = { s.notices with sources := t.notices.sources } ∧
      ∀ q, t.source q = { s.source q with timer := (s.source q).timer.map (fun n => n - 1) })

/-! ## Reset, sweep and restart (Chapter 10) -/

/-- The values that R27, R71, R88, R113, R136, R157, R168, R199 and R201 give the part at the release of RESET_N. What
only the sweep writes, and the strap levels, are the model's choice (log entry 4) and not stated. -/
def Obligations.ResetLeavesTheseValues : Prop :=
  State.reset.device.state = .starting ∧ State.reset.device.sweeping = true ∧
    State.reset.device.restartMark = none ∧
  State.reset.rules.working = .a ∧ State.reset.rules.generation = 0 ∧ State.reset.rules.copying = false ∧
  State.reset.stations.ageLimit = 300 ∧ State.reset.stations.threshold = 16 ∧
    State.reset.stations.moveCount = 0 ∧ State.reset.stations.storm = false ∧
  (∀ m ∈ State.reset.meters.meters, m.mode = .off ∧ m.timer = none) ∧ State.reset.meters.gateOpen = false ∧
  State.reset.store.clock = 0 ∧ (∀ p, State.reset.store.awaiting.get p = []) ∧
  (∀ p, State.reset.port p =
    ⟨.active, .active, true, 128, 32, 5, 0, 1000, none, .idle, .zero, .zero,
      ⟨[], [], [], [], none, .idleFill, ⟨0, 0, 0⟩, 4, 2, 1, 0⟩⟩) ∧
  State.reset.sync = ⟨false, 20, none⟩ ∧
  State.reset.agent = ⟨State.reset.agent.address, [], none, [], none, 0, 0, 0, 0, 0, 0⟩ ∧
  State.reset.notices.target = 0 ∧ State.reset.notices.port = .t ∧ State.reset.notices.interval = 50 ∧
    State.reset.notices.sequence = 0 ∧ State.reset.notices.waiting = false ∧ State.reset.notices.lost = 0 ∧
    State.reset.notices.deferred = 0 ∧
  ∀ q, State.reset.source q = ⟨false, false, 0, 0, none, none, false⟩

/-- RESET_N goes low: every block takes its values for the start of a pin reset (R200). What the spec leaves open at this
point is the model's choice: that what only the sweep writes stays as it was (log entries 4 and 19), that a standby bank in
mid-copy keeps its old contents (log entry 9), and that the device state keeps its last value (log entry 24). -/
def Obligations.PinResetStarts : Prop :=
  ∀ s : State, s.device.resetHeld = false → ∃ t, exec .resetNLow s = .next t ∧
    t.device =
      { s.device with sweeping := false, restartMark := none, restartDue := false, resetHeld := true } ∧
    t.rules = { s.rules with working := .a, generation := 0, copying := false } ∧
    t.stations = { s.stations with ageLimit := 300, threshold := 16, moveCount := 0, storm := false } ∧
    t.meters = ⟨s.meters.meters.map (fun m => { m with mode := .off, timer := none }), false⟩ ∧
    t.store.clock = 0 ∧ (∀ p, t.store.awaiting.get p = []) ∧
    (∀ p, t.port p =
      { PortUnit.fresh with
        errorWindow := (s.port p).errorWindow
        egress :=
          { Egress.fresh with
            line := if (s.port p).egress.transmitter = none then (s.port p).egress.line else .abortMark } }) ∧
    t.sync = ⟨false, 20, none⟩ ∧
    t.agent = ⟨s.agent.address, [], none, [], none, 0, 0, 0, 0, 0, 0⟩ ∧
    t.notices = .fresh ∧ t.choices = s.choices ∧ t.pending = s.pending

/-- While RESET_N is held low no event is taken at any block, a further RESET_N low included (R200). -/
def Obligations.NoEventWhileResetHeld : Prop :=
  ∀ (c : Instr) (s : State), s.device.resetHeld = true → c.wellFormed = true →
    (∀ straps, c ≠ .resetNRelease straps) → exec c s = .next s

/-- The release of RESET_N samples the straps, enters STARTING and begins the sweep (R201); the sweep's completion leaves
its results and enters RUNNING (R202). -/
def Obligations.ReleaseAndSweep : Prop :=
  (∀ (straps : BitVec 6) (s : State), s.device.resetHeld = true →
    exec (.resetNRelease straps) s = .next
      { s with
        stations := { s.stations with agingClock := 1000, moveWindow := 1000 }
        store := { s.store with clock := 0 }
        ports := s.ports.map (fun u => { u with errorWindow := 1000, egress := { u.egress with line := .idleFill } })
        agent := { s.agent with address := 0xE000 + straps.setWidth 16, startupDiscards := 0 }
        device := { s.device with state := .starting, sweeping := true, resetHeld := false } }) ∧
  (∀ s : State, s.device.resetHeld = false → s.device.sweeping = true →
    exec .sweepComplete s = .next
      { s with
        rules := { s.rules with bankA := ⟨⟨.pass, none⟩, []⟩, bankB := ⟨⟨.pass, none⟩, []⟩ }
        stations := { s.stations with entries := [] }
        meters := { s.meters with meters := List.replicate 32 ⟨.off, 0, 0, 0, .drop, false, 0, .armed, none, 0, 0⟩ }
        store := { s.store with slots := [], held := ⟨0, 0, 0, 0, 0⟩ }
        agent := { s.agent with cache := [] }
        device := { s.device with state := .running, sweeping := false } })

/-- The restart point of RESTART FULL performs what the start of a pin reset and the release of RESET_N perform, but that
the straps are not sampled and the restart count increments, saturating at 255 (R205). No RESET_N low precedes the sweep,
so a transmission that it aborts leaves an abort mark as the line's last mark. -/
def Obligations.RestartPointResets : Prop :=
  ∀ (s : State) (straps : BitVec 6), s.device.resetHeld = false → s.device.restartDue = true →
    ∃ u v t, exec .resetNLow s = .next u ∧ exec (.resetNRelease straps) u = .next v ∧ exec .restartPoint s = .next t ∧
      t =
        { v with
          agent := { v.agent with address := s.agent.address, restartCount := min 255 (s.agent.restartCount + 1) }
          ports := t.ports } ∧
      ∀ p, t.port p =
        { v.port p with
          egress :=
            { (v.port p).egress with
              line := if (s.port p).egress.transmitter = none then (s.port p).egress.line else .abortMark } }

/-! ## Reception (Chapter 6, 5.2) -/

/-- A start mark makes an IDLE receiver RECEIVING; during a frame it cuts that frame off, counted RX_ABORT in RUNNING and
STARTUP_DISCARDS otherwise, and begins a new one (R115, R116, R117); a port out of service ignores it (R120). -/
def Obligations.StartMarkBeginsAFrame : Prop :=
  ∀ (p : Port) (s : State), s.device.resetHeld = false →
    (s.inService p = false → exec (.startMark p) s = .next s) ∧
    (s.inService p = true →
      ((s.port p).receiver = .idle →
        exec (.startMark p) s = .next (s.setPort p { s.port p with receiver := .receiving [] 0 })) ∧
      (∀ stored n, (s.port p).receiver = .receiving stored n →
        (s.device.state = .running →
          exec (.startMark p) s = .next
            (s.setPort p
              { s.port p with
                receiver := .receiving [] 0
                counters := (s.port p).counters.bump .rxAbort })) ∧
        (s.device.state ≠ .running →
          exec (.startMark p) s = .next
            { s.setPort p { s.port p with receiver := .receiving [] 0 } with
              agent := { s.agent with startupDiscards := s.agent.startupDiscards + 1 } })))

/-- A good frame that arrives whole counts RX_GOOD, takes the free slot with the lowest number with the port as arrival
attribute, the clock's reading as acceptance time and one reference, and awaits its classification behind the port's
others (R92, R119). -/
def Obligations.GoodFrameTakesASlot : Prop :=
  ∀ (p : Port) (f : Frame) (s : State) (n : Nat), s.device.resetHeld = false → s.device.state = .running →
    s.inService p = true → (s.port p).receiver = .receiving [] 0 → FrameOk f →
    s.store.held.get p < (s.port p).quota → s.lowestFreeSlot = some n →
    exec (.endOfFrame p f.toBytes .endMark) s = .next
      { s with
        ports := s.ports.set p
          { s.port p with receiver := .idle, counters := (s.port p).counters.bump .rxGood }
        store :=
          { s.store with
            slots := put n ⟨f, .port p, s.store.clock, 1⟩ s.store.slots
            held := s.store.held.set p (s.store.held.get p + 1)
            awaiting := s.store.awaiting.set p (s.store.awaiting.get p ++ [n]) } }

/-- A good frame of a port at its quota is lost to RX_QUOTA; else, with no free slot, to RX_NOSLOT with one
STORE_EXHAUSTED occurrence that names the port (R92). -/
def Obligations.GoodFrameWithoutASlotIsLost : Prop :=
  ∀ (p : Port) (f : Frame) (s : State), s.device.resetHeld = false → s.device.state = .running →
    s.inService p = true → (s.port p).receiver = .receiving [] 0 → FrameOk f →
    ((s.port p).quota ≤ s.store.held.get p →
      exec (.endOfFrame p f.toBytes .endMark) s = .next
        (s.setPort p
          { s.port p with receiver := .idle, counters := ((s.port p).counters.bump .rxGood).bump .rxQuota })) ∧
    (s.store.held.get p < (s.port p).quota → s.lowestFreeSlot = none →
      exec (.endOfFrame p f.toBytes .endMark) s = .next
        ((s.setPort p
          { s.port p with receiver := .idle, counters := ((s.port p).counters.bump .rxGood).bump .rxNoSlot }).raise
            .storeExhausted (BitVec.ofNat 16 (portNumber p))))

/-- The tests of R117 in their order, at a port that this error does not block: a cut-off frame counts RX_ABORT and no
error; a byte count outside 10 to 76, a wrong check and a failed header test count their counter and one error in the
window, saturating at 255 (R124). -/
def Obligations.BadFrameIsCounted : Prop :=
  ∀ (p : Port) (s : State) (stored data : List Byte) (n : Nat), s.device.resetHeld = false →
    s.device.state = .running → s.inService p = true → (s.port p).receiver = .receiving stored n →
    (p = .t ∨ (s.port p).errorLimit = 0 ∨ (s.port p).errorCount + 1 < (s.port p).errorLimit) →
    let bytes := (stored ++ data).take 76
    let count := n + data.length
    let bad (c : Counter) : State :=
      s.setPort p
        { s.port p with
          receiver := .idle
          counters := (s.port p).counters.bump c
          errorCount := min 255 ((s.port p).errorCount + 1) }
    (∀ ending, ending ≠ .endMark →
      exec (.endOfFrame p data ending) s = .next
        (s.setPort p
          { s.port p with
            receiver := if ending = .startMark then .receiving [] 0 else .idle
            counters := (s.port p).counters.bump .rxAbort })) ∧
    (count < 10 ∨ 76 < count → exec (.endOfFrame p data .endMark) s = .next (bad .rxMalformed)) ∧
    (10 ≤ count → count ≤ 76 → crc (bytes.take (bytes.length - 2)) ≠ wordAt bytes (bytes.length - 2) →
      exec (.endOfFrame p data .endMark) s = .next (bad .rxCrc)) ∧
    (10 ≤ count → count ≤ 76 → crc (bytes.take (bytes.length - 2)) = wordAt bytes (bytes.length - 2) →
      readFrame (bytes.take (bytes.length - 2)) (wordAt bytes (bytes.length - 2)) = none →
      exec (.endOfFrame p data .endMark) s = .next (bad .rxMalformed))

/-- The counted error that reaches a branch's limit takes the branch out of service in the same event: BLOCKED with its
block timer started, one PORT_BLOCKED occurrence, the transmission aborted, the queues flushed, the LEARNED entries
removed, the error count 0; no other port, and no rule, meter, lock or request, is touched (R122, R125). The references of
its queues and its transmitter, and no others, are released (R96, R109). -/
def Obligations.ErrorLimitBlocksABranch : Prop :=
  ∀ (p : Port) (s : State) (stored data : List Byte) (n : Nat) (c : Counter), s.device.resetHeld = false →
    s.device.state = .running → s.inService p = true → (s.port p).receiver = .receiving stored n →
    judgeFrame ((stored ++ data).take 76) (n + data.length) = .bad c →
    p ≠ .t → (s.port p).errorLimit ≠ 0 → (s.port p).errorLimit ≤ (s.port p).errorCount + 1 →
    (s.port p).errorLimit ≤ 255 →
    ∃ t, exec (.endOfFrame p data .endMark) s = .next t ∧
      t.port p =
        { s.port p with
          state := .blocked
          receiver := .idle
          errorCount := 0
          blockTimer := some ((s.port p).blockInterval * 1000)
          counters :=
            if (s.port p).egress.transmitter = none then (s.port p).counters.bump c
            else ((s.port p).counters.bump c).bump .txAbort
          egress :=
            { (s.port p).egress with
              q3 := [], q2 := [], q1 := [], q0 := [], round := ⟨0, 0, 0⟩, transmitter := none
              line := if (s.port p).egress.transmitter = none then (s.port p).egress.line else .abortMark } } ∧
      (∀ q, q ≠ p → t.port q = s.port q) ∧
      t.stations =
        { s.stations with
          entries := s.stations.entries.filter (fun e => !(e.2.isLearned && decide (e.2.port = p))) } ∧
      t.source .portBlocked =
        { s.source .portBlocked with
          pending := true
          occurrences := min 255 ((s.source .portBlocked).occurrences + 1)
          detail := BitVec.ofNat 16 (portNumber p) } ∧
      (∀ q, q ≠ .portBlocked → t.source q = s.source q) ∧ t.notices.causeDue = true ∧
      t.rules = s.rules ∧ t.meters = s.meters ∧ t.sync = s.sync ∧ t.agent = s.agent ∧
      t.store.awaiting = s.store.awaiting ∧ t.choices = s.choices ∧
      (SlotsOk s → HeldOk s → ReferencesReleased (egressRefs s p) s t)

/-- A frame that ends while the device is not RUNNING is discarded without validation and counted in STARTUP_DISCARDS
only (R116, R203, R204). -/
def Obligations.FrameDiscardedOutsideRunning : Prop :=
  ∀ (p : Port) (s : State) (stored data : List Byte) (n : Nat) (ending : Ending), s.device.resetHeld = false →
    s.inService p = true → (s.port p).receiver = .receiving stored n → s.device.state ≠ .running →
    exec (.endOfFrame p data ending) s = .next
      { s.setPort p { s.port p with receiver := if ending = .startMark then .receiving [] 0 else .idle } with
        agent := { s.agent with startupDiscards := s.agent.startupDiscards + 1 } }

/-! ## Formats (Chapter 11) -/

/-- The bytes of a legal frame are judged good and read back as that frame; and bytes judged good, with their own count,
are the bytes of a legal frame: no bit of the layout is dropped, and none is let in (R117, R118, R210). -/
def Obligations.FrameRoundTrip : Prop :=
  (∀ f : Frame, FrameOk f → judgeFrame f.toBytes f.toBytes.length = .good f) ∧
  (∀ (bytes : List Byte) (f : Frame), judgeFrame bytes bytes.length = .good f → FrameOk f ∧ f.toBytes = bytes)

/-- A rule that READ_RULE returns passes the legality check when it is written again and is stored as the same rule; and
a record that passes is legal, and is returned as it was written (R16, R17, R170, R213). A record that fails is refused
with the detail of the first of R16's tests that it fails, in R16's order, and passes only when it fails none. -/
def Obligations.RuleRecordRoundTrip : Prop :=
  (∀ r : Rule, RuleOk r →
    readRuleRecord (ruleBytes r) = .ok r ∧ recordLength (ruleBytes r) = (ruleBytes r).length ∧
      recordReservedClear (ruleBytes r) = true) ∧
  (∀ (record : List Byte) (r : Rule), readRuleRecord record = .ok r → recordLength record ≤ record.length →
    recordReservedClear record = true → RuleOk r ∧ ruleBytes r = record.take (recordLength record)) ∧
  ∀ record : List Byte,
    (∀ d, firstFailure record = some d → readRuleRecord record = .error d) ∧
    (firstFailure record = none → ∃ r, readRuleRecord record = .ok r)

/-! ## Evaluation (Chapter 1) -/

/-- R7: a TAG term on an untagged frame and a PAYLOAD term that the payload does not hold whole do not hold, whatever
their sense; in ALL mode a term that does not hold prevents a match, in ANY and FIRSTOF mode another term may still match;
a TAG term with sense EQUAL and mask 0 tests the tagged flag. Every other term reads the field that its selector names,
widened to 16 bits, and holds as its sense says of the field and the value under the mask (R5, R6). -/
def Obligations.WhenATermHolds : Prop :=
  (∀ (f : Frame) (t : Term), t.selector = .tag → f.tag = none → t.holds f = false) ∧
  (∀ (f : Frame) (t : Term), t.selector = .payload → f.payload.length ≤ t.offset.toNat + 1 → t.holds f = false) ∧
  (∀ (f : Frame) (r : Rule) (t : Term), t ∈ r.terms → t.holds f = false → r.mode = .all → r.decides f = none) ∧
  (∀ (f : Frame) (r : Rule) (t : Term), RuleOk r → t ∈ r.terms → t.holds f = true → r.mode ≠ .all →
    (r.decides f).isSome = true) ∧
  (∀ (f : Frame) (t : Term), t.selector = .tag → t.sense = .equal → t.mask = 0 → t.holds f = f.tag.isSome) ∧
  ∀ (f : Frame) (t : Term),
    let compares (field : Nat) : Prop :=
      (t.sense = .equal → (t.holds f = true ↔ BitVec.ofNat 16 field &&& t.mask = t.value &&& t.mask)) ∧
      (t.sense = .differ → (t.holds f = true ↔ BitVec.ofNat 16 field &&& t.mask ≠ t.value &&& t.mask))
    (t.selector = .dest → compares f.dest.toNat) ∧
    (t.selector = .source → compares f.src.toNat) ∧
    (t.selector = .kind →
      compares (match f.kind with | .data => 0 | .sync => 1 | .mgmt => 2 | .reply => 3 | .notice => 4)) ∧
    (t.selector = .cls → compares f.cls.toNat) ∧
    (t.selector = .hops → compares f.hops.toNat) ∧
    (t.selector = .length → compares f.payload.length) ∧
    (t.selector = .seq → compares f.seq.toNat) ∧
    (∀ v, t.selector = .tag → f.tag = some v → compares v.toNat) ∧
    (t.selector = .payload → t.offset.toNat + 1 < f.payload.length →
      compares ((byteAt f.payload t.offset.toNat).toNat * 256 + (byteAt f.payload (t.offset.toNat + 1)).toNat))

/-- R8: when a considered rule matches in each mode, and which of its actions is used; a FIRSTOF rule with one term is
the ALL rule with that term. -/
def Obligations.MatchModes : Prop :=
  (∀ (f : Frame) (r : Rule), RuleOk r → r.mode = .all →
    r.decides f = if ∀ t ∈ r.terms, t.holds f = true then r.actions[0]? else none) ∧
  (∀ (f : Frame) (r : Rule), RuleOk r → r.mode = .any →
    r.decides f = if ∃ t ∈ r.terms, t.holds f = true then r.actions[0]? else none) ∧
  (∀ (f : Frame) (r : Rule), RuleOk r → r.mode = .firstOf →
    ((∀ t ∈ r.terms, t.holds f = false) → r.decides f = none) ∧
    (∀ (k : Nat) (t : Term), r.terms[k]? = some t → t.holds f = true →
      (∀ (j : Nat) (u : Term), j < k → r.terms[j]? = some u → u.holds f = false) →
      r.decides f = r.actions[k]? ∧ (r.actions[k]?).isSome = true)) ∧
  (∀ (f : Frame) (r : Rule), RuleOk r → r.mode = .firstOf → r.terms.length = 1 →
    r.decides f = Rule.decides f { r with mode := .all })

/-- Evaluation takes the positions of the working bank from 0 upward: the position it returns holds a rule that is
considered for the arrival port and matches, no lower position does, and the action is that rule's; it returns no
position only when none does; the observation port is the working header's (R11, R13). -/
def Obligations.FirstMatchDecides : Prop :=
  ∀ (s : State) (p : Port) (f : Frame), BanksOk s →
    let k := s.rules.bank s.rules.working
    let d := evaluate p f s
    d.observation = k.header.observation ∧
    (∀ n, d.position = some n →
      (∃ x, lookup n k.positions = some x ∧ inPortSet p x.rule.arrival = true ∧ x.rule.decides f = some d.action) ∧
      ∀ m y, m < n → lookup m k.positions = some y → inPortSet p y.rule.arrival = true → y.rule.decides f = none) ∧
    (d.position = none →
      ∀ m y, lookup m k.positions = some y → inPortSet p y.rule.arrival = true → y.rule.decides f = none)

/-- R12: when no rule matches, the default of the working bank's header decides; no hit counter changes; a default PASS
sends by destination without limit, class change, metering, copy or notice, and a default DROP is a rule drop. -/
def Obligations.DefaultDecides : Prop :=
  ∀ (s : State) (p : Port) (f : Frame),
    (∀ e ∈ (s.rules.bank s.rules.working).positions, inPortSet p e.2.rule.arrival = true → e.2.rule.decides f = none) →
    let d := evaluate p f s
    d.position = none ∧
    d.action.verdict = (match (s.rules.bank s.rules.working).header.verdict with | .pass => .pass | .drop => .drop) ∧
    d.action.portLimit = 0 ∧ d.action.classPresent = false ∧ d.action.tagOp = .leave ∧ d.action.meterPresent = false ∧
    d.action.copy = false ∧ d.action.notice = false ∧
    countHit d s = s ∧
    ((s.rules.bank s.rules.working).header.verdict = .pass →
      verdictTargets s p f.dest d.action = resolve s p f.dest ∧ (rewrite d.action f).cls = f.cls ∧
      (∀ ports g, meterStep s p d.action ports g = ⟨s, ports, g⟩) ∧ (∀ ports, copyTarget s p d ports = none) ∧
      noticeStep s d = s) ∧
    ((s.rules.bank s.rules.working).header.verdict = .drop →
      verdictTargets s p f.dest d.action = ⟨[], some .rxRuleDrop⟩)

/-- Only the deciding position's hit counter counts, by one, staying at 4294967295; every other position of both banks,
and everything else in the part, is as it was (R10, R11). -/
def Obligations.OnlyTheDecidingCounterCounts : Prop :=
  ∀ (s : State) (p : Port) (f : Frame), BanksOk s →
    let d := evaluate p f s
    let t := countHit d s
    (∀ n x, d.position = some n → lookup n (s.rules.bank s.rules.working).positions = some x →
      lookup n (t.rules.bank s.rules.working).positions =
        some { x with hits := if x.hits.toNat = 4294967295 then x.hits else x.hits + 1 }) ∧
    (∀ m, d.position ≠ some m →
      lookup m (t.rules.bank s.rules.working).positions = lookup m (s.rules.bank s.rules.working).positions) ∧
    t.rules.bank s.rules.standby = s.rules.bank s.rules.standby ∧
    (t.rules.bank s.rules.working).header = (s.rules.bank s.rules.working).header ∧
    t = { s with rules := { s.rules with bankA := t.rules.bankA, bankB := t.rules.bankB } }

/-! ## Classification (Chapter 2) -/

/-- A frame discarded at steps 0 to 2 is released with its one counter, and nothing is learned (R29, R31, R32). A frame
other than SYNC, or a SYNC frame on T in LISTEN, discarded at steps 3 to 6 is released with its one counter: RX_GUARD where
its source is PINNED on another port; else, its source learned, RX_LOCAL for a frame of any kind but MGMT to the part's own
address, RX_LISTEN on a LISTEN port, RX_EXPIRED for hop count 0 (R33, R36 to R38). The SYNC frame on T in LISTEN gives no
trunk sync event: the lock, its timer, the gate and the meters stay as they were (R32, R131). What becomes of SYNC frames on
an ACTIVE T and of MGMT frames to the part or to broadcast stands in the statements on them. -/
def Obligations.DiscardedWithOneCounter : Prop :=
  ∀ (p : Port) (s : State) (n : Nat) (rest : List Nat) (x : Slot), AwaitsAlone s p n rest x →
    (s.device.state ≠ .running →
      exec (.classification p) s = .next
        { discarded s p n rest with
          agent := { s.agent with startupDiscards := s.agent.startupDiscards + 1 } }) ∧
    (s.device.state = .running →
      (s.inService p = false →
        exec (.classification p) s = .next ((discarded s p n rest).count p .rxListen)) ∧
      (s.inService p = true →
        (x.frame.src = s.agent.address →
          exec (.classification p) s = .next ((discarded s p n rest).count p .rxOwn)) ∧
        (x.frame.src ≠ s.agent.address → x.frame.kind = .sync → p ≠ .t →
          exec (.classification p) s = .next ((discarded s p n rest).count p .rxSyncMisplaced)) ∧
        (x.frame.src ≠ s.agent.address → p = .t → x.frame.kind = .sync → (s.port .t).state = .listen →
          ∃ t, exec (.classification p) s = .next t ∧ t.sync = s.sync ∧ t.meters = s.meters) ∧
        (x.frame.src ≠ s.agent.address → (x.frame.kind = .sync → p = .t ∧ (s.port .t).state = .listen) →
          (∀ q, q ≠ p → s.station x.frame.src = some ⟨q, .pinned⟩ →
            exec (.classification p) s = .next ((discarded s p n rest).count p .rxGuard)) ∧
          ((∀ q, q ≠ p → s.station x.frame.src ≠ some ⟨q, .pinned⟩) →
            let u := (s.learn x.frame.src p).2
            (x.frame.dest = s.agent.address → x.frame.kind ≠ .mgmt →
              exec (.classification p) s = .next ((discarded u p n rest).count p .rxLocal)) ∧
            (x.frame.dest ≠ s.agent.address → (x.frame.kind = .mgmt → x.frame.dest ≠ 0xFFFF) →
              ((s.port p).state = .listen →
                exec (.classification p) s = .next ((discarded u p n rest).count p .rxListen)) ∧
              ((s.port p).state = .active → x.frame.hops = 0 →
                exec (.classification p) s = .next ((discarded u p n rest).count p .rxExpired)))))))

/-- What learning does with each entry for the source (R55 to R59), and that it leaves every other entry as it was; beside
the table it touches only the sources MOVE_STORM and STATION_FULL, whose occurrences make a service event due. -/
def Obligations.LearningRules : Prop :=
  ∀ (s : State) (a : Word) (p : Port),
    (s.station a = none → s.stations.entries.length < 256 →
      (s.learn a p).1 = .goOn ∧ (s.learn a p).2.station a = some ⟨p, .learned s.stations.ageLimit⟩ ∧
      (s.learn a p).2 = s.setEntries (s.learn a p).2.stations.entries) ∧
    (s.station a = none → 256 ≤ s.stations.entries.length → s.learn a p = (.goOn, s.raise .stationFull a)) ∧
    (∀ age, s.station a = some ⟨p, .learned age⟩ →
      (s.learn a p).1 = .goOn ∧ (s.learn a p).2.station a = some ⟨p, .learned s.stations.ageLimit⟩ ∧
      (s.learn a p).2 = s.setEntries (s.learn a p).2.stations.entries) ∧
    (∀ q age, q ≠ p → s.station a = some ⟨q, .learned age⟩ →
      (s.learn a p).1 = .goOn ∧ (s.learn a p).2.station a = some ⟨p, .learned s.stations.ageLimit⟩ ∧
      (s.learn a p).2.stations.moveCount = (if s.stations.moveCount < 255 then s.stations.moveCount + 1 else 255) ∧
      (s.stations.threshold ≤ (s.learn a p).2.stations.moveCount ∧ s.stations.storm = false →
        (s.learn a p).2.stations.storm = true ∧
        (s.learn a p).2.source .moveStorm = (s.source .moveStorm).occur a) ∧
      (¬ (s.stations.threshold ≤ (s.learn a p).2.stations.moveCount ∧ s.stations.storm = false) →
        (s.learn a p).2.stations.storm = s.stations.storm ∧ (s.learn a p).2.notices = s.notices)) ∧
    (s.station a = some ⟨p, .pinned⟩ → s.learn a p = (.goOn, s)) ∧
    (∀ q, q ≠ p → s.station a = some ⟨q, .pinned⟩ → s.learn a p = (.guard, s)) ∧
    (∀ b, b ≠ a → (s.learn a p).2.station b = s.station b) ∧
    (s.learn a p).2 =
      { s with
        stations := (s.learn a p).2.stations
        notices :=
          { s.notices with
            sources := (s.learn a p).2.notices.sources
            causeDue := (s.learn a p).2.notices.causeDue } } ∧
    ∀ r, r ≠ .moveStorm → r ≠ .stationFull → (s.learn a p).2.source r = s.source r

/-- No target is the arrival port and every target is ACTIVE, no target twice; a set that is empty charges one counter and
a set that is not charges none; nor is the copy's port the arrival port, out of ACTIVE, or a target (R42 to R44, R48). -/
def Obligations.TargetSetLaws : Prop :=
  ∀ (s : State) (p : Port) (dest : Word) (a : Action),
    p ∉ (verdictTargets s p dest a).ports ∧
    (∀ q ∈ (verdictTargets s p dest a).ports, (s.port q).state = .active) ∧
    (verdictTargets s p dest a).ports.Nodup ∧
    ((verdictTargets s p dest a).ports = [] ↔ (verdictTargets s p dest a).charge.isSome = true) ∧
    ∀ d ports o, copyTarget s p d ports = some o →
      o ≠ p ∧ (s.port o).state = .active ∧ o ∉ ports ∧ d.action.copy = true ∧ d.observation = some o

/-- The target set and the counter of each verdict (R41 to R44): DROP; STEER to the arrival port, to a port that is not
ACTIVE, to an ACTIVE port; PASS to a known station, to an unknown one, a group or broadcast; and a port limit. -/
def Obligations.VerdictTable : Prop :=
  ∀ (s : State) (p : Port) (dest : Word) (a : Action),
    (a.verdict = .drop → verdictTargets s p dest a = ⟨[], some .rxRuleDrop⟩) ∧
    (∀ q, a.verdict = .steer → a.steerPort.toNat = portNumber q →
      (q = p → verdictTargets s p dest a = ⟨[], some .rxLocal⟩) ∧
      (q ≠ p → (s.port q).state ≠ .active → verdictTargets s p dest a = ⟨[], some .rxUnreach⟩) ∧
      (q ≠ p → (s.port q).state = .active → verdictTargets s p dest a = ⟨[q], none⟩)) ∧
    (a.verdict = .pass → a.portLimit = 0 →
      (∀ e, isStation dest = true → s.station dest = some e →
        (e.port = p → verdictTargets s p dest a = ⟨[], some .rxLocal⟩) ∧
        (e.port ≠ p → (s.port e.port).state ≠ .active → verdictTargets s p dest a = ⟨[], some .rxUnreach⟩) ∧
        (e.port ≠ p → (s.port e.port).state = .active → verdictTargets s p dest a = ⟨[e.port], none⟩)) ∧
      (isStation dest = false ∨ s.station dest = none →
        (∀ q, q ∈ (verdictTargets s p dest a).ports ↔ q ≠ p ∧ (s.port q).state = .active) ∧
        ((verdictTargets s p dest a).ports = [] → (verdictTargets s p dest a).charge = some .rxUnreach))) ∧
    (a.verdict = .pass → a.portLimit ≠ 0 →
      let wide := verdictTargets s p dest { a with portLimit := 0 }
      (∀ q, q ∈ (verdictTargets s p dest a).ports ↔ q ∈ wide.ports ∧ inPortSet q a.portLimit = true) ∧
      (wide.ports = [] → verdictTargets s p dest a = wide) ∧
      (wide.ports ≠ [] → (verdictTargets s p dest a).ports = [] →
        (verdictTargets s p dest a).charge = some .rxRuleDrop))

/-- Class rewrite and tag operation apply unless the verdict is DROP; every frame loses one hop and leaves with a check that
is right for its content; destination, source, kind, sequence and payload stay (R45, R46). -/
def Obligations.RewriteTable : Prop :=
  ∀ (a : Action) (f : Frame),
    let g := rewrite a f
    g.dest = f.dest ∧ g.src = f.src ∧ g.kind = f.kind ∧ g.seq = f.seq ∧ g.payload = f.payload ∧
    g.hops = f.hops - 1 ∧ g.check = crc g.body ∧
    (a.verdict = .drop → g.cls = f.cls ∧ g.tag = f.tag) ∧
    (a.verdict ≠ .drop →
      (a.classPresent = true → g.cls = a.classValue.setWidth 2) ∧ (a.classPresent = false → g.cls = f.cls) ∧
      (a.tagOp = .leave → g.tag = f.tag) ∧ (a.tagOp = .strip → g.tag = none) ∧
      (a.tagOp = .set → g.tag = some (a.tagValue.setWidth 12)))

/-- A consultation (R47, R74, R75): an OFF meter is not consulted; a frame within the credit of a meter that is not SPENT
conforms and is paid for; any other exceeds, nothing taken, and makes an ARMED SINGLE meter SPENT with one METER_SPENT
occurrence. The cost of a legal payload is 1 to 5. What a CLASSIFICATION does with a decision, whatever rule or default
made it (R40 to R51): the deciding counter counts; an empty target set charges its counter; the meter is consulted where
the action names one and there are targets; exceeding it, DROP empties the targets and counts RX_METERDROP, DEMOTE makes
the class 0; the content is rewritten; each target gets a reference in its class queue, and the observation port a copy
in class 0; the notice flag raises one RULE_HIT with the deciding position; the classification's reference is given up, and
the other slots, the other sources, the lock and the Agent stay as learning left them (`DecisionCarriedOut`). -/
def Obligations.DecisionIsCarriedOut : Prop :=
  (∀ f : Frame, f.payload.length ≤ 64 →
    (f.payload.length ≤ 15 → frameCost f = 1) ∧
    (16 ≤ f.payload.length → f.payload.length ≤ 31 → frameCost f = 2) ∧
    (32 ≤ f.payload.length → f.payload.length ≤ 47 → frameCost f = 3) ∧
    (48 ≤ f.payload.length → f.payload.length ≤ 63 → frameCost f = 4) ∧
    (f.payload.length = 64 → frameCost f = 5)) ∧
  (∀ (s : State) (n cost : Nat),
    let m := s.meter n
    (m.mode = .off → s.consult n cost = (.notConsulted, s)) ∧
    (m.mode ≠ .off → cost ≤ m.credit → (m.mode = .single → m.arm = .armed) →
      s.consult n cost = (.conforms, s.setMeter n { m with credit := m.credit - cost, conform := m.conform + 1 })) ∧
    (m.mode ≠ .off → m.mode ≠ .single → m.credit < cost →
      s.consult n cost = (.exceeds m.exceed, s.setMeter n { m with exceeded := m.exceeded + 1 })) ∧
    (m.mode = .single → m.arm = .spent →
      s.consult n cost = (.exceeds m.exceed, s.setMeter n { m with exceeded := m.exceeded + 1 })) ∧
    (m.mode = .single → m.arm = .armed → m.credit < cost →
      s.consult n cost =
        (.exceeds m.exceed,
          (s.setMeter n { m with exceeded := m.exceeded + 1, arm := .spent }).raise .meterSpent (BitVec.ofNat 16 n)))) ∧
  ∀ (p : Port) (s : State) (n : Nat) (rest : List Nat) (x : Slot), AwaitsAlone s p n rest x → IdleIsEmpty s →
    SlotsOk s → s.device.state = .running → (s.port p).state = .active → x.frame.kind ≠ .sync →
    x.frame.src ≠ s.agent.address → x.frame.dest ≠ s.agent.address →
    (x.frame.kind = .mgmt → x.frame.dest ≠ 0xFFFF) → x.frame.hops ≠ 0 →
    (∀ q, q ≠ p → s.station x.frame.src ≠ some ⟨q, .pinned⟩) →
    ∃ t, exec (.classification p) s = .next t ∧ t.agent = s.agent ∧ t.sync = s.sync ∧
      DecisionCarriedOut (s.learn x.frame.src p).2 p n x t

/-- A DATA frame that no rule decides, under a default PASS, from a station LEARNED on its arrival port to a station known on
another ACTIVE port whose transmitter is busy: the source's age is full again, one reference joins the tail of the
frame's class queue there, and the slot holds the frame with one hop less and a new check; nothing else changes (R43,
R46, R50, R57). -/
def Obligations.KnownStationIsForwarded : Prop :=
  ∀ (p q : Port) (s : State) (n m age : Nat) (rest : List Nat) (x : Slot) (e : StationEntry),
    AwaitsAlone s p n rest x → s.device.state = .running → (s.port p).state = .active →
    x.frame.kind = .data → x.frame.hops ≠ 0 → x.frame.src ≠ s.agent.address → x.frame.dest ≠ s.agent.address →
    isStation x.frame.dest = true → x.frame.dest ≠ x.frame.src →
    s.station x.frame.src = some ⟨p, .learned age⟩ → s.station x.frame.dest = some e → e.port = q → q ≠ p →
    (s.port q).state = .active → (evaluate p x.frame s).position = none →
    (s.rules.bank s.rules.working).header.verdict = .pass →
    (s.port q).egress.transmitter = some m → ((s.port q).egress.queue x.frame.cls).length < 32 →
    exec (.classification p) s = .next
      { s with
        stations :=
          { s.stations with
            entries := put x.frame.src.toNat ⟨p, .learned s.stations.ageLimit⟩ s.stations.entries }
        store :=
          { s.store with
            slots := put n { x with frame := Frame.recheck { x.frame with hops := x.frame.hops - 1 } } s.store.slots
            awaiting := s.store.awaiting.set p rest }
        ports := s.ports.set q
          { s.port q with
            egress :=
              (s.port q).egress.setQueue x.frame.cls ((s.port q).egress.queue x.frame.cls ++ [n]) } }

/-- A SYNC frame on an ACTIVE trunk, not from the part's own address, makes the lock LOCKED, restarts the sync timer,
opens the gate and serves the triggers, whatever becomes of the frame afterwards (R32, R79, R81, R131). Its source is then
judged and learned like any other; addressed to the part it counts RX_LOCAL, with hop count 0 RX_EXPIRED; else it is not
evaluated, its destination is not looked up, and it goes with one hop less and a new check to every ACTIVE branch, in its
own class, or counts RX_UNREACH when none is ACTIVE (R33, R36, R38, R39, R50). -/
def Obligations.SyncFrameKeepsTheLock : Prop :=
  (∀ (s : State) (n : Nat) (rest : List Nat) (x : Slot), s.device.resetHeld = false → s.device.state = .running →
    s.store.awaiting.t = n :: rest → s.slot n = some x → (s.port .t).state = .active →
    x.frame.kind = .sync → x.frame.src ≠ s.agent.address →
    ∃ t, exec (.classification .t) s = .next t ∧ t.sync = ⟨true, s.sync.timeout, some s.sync.timeout⟩ ∧
      t.meters =
        ⟨s.meters.meters.map (fun m =>
          let opened := if s.meters.gateOpen = false ∧ m.mode = .gated then { m with timer := some m.period } else m
          if m.trigger = true then
            match m.mode with
            | .off => opened
            | .single => { opened with credit := m.ceiling, arm := .armed }
            | .continuous => { opened with credit := min m.ceiling (m.credit + m.refill), timer := some m.period }
            | .gated => { opened with credit := min m.ceiling (m.credit + m.refill), timer := some m.period }
          else opened), true⟩) ∧
  ∀ (s : State) (n : Nat) (rest : List Nat) (x : Slot), AwaitsAlone s .t n rest x → IdleIsEmpty s → SlotsOk s →
    s.device.state = .running → (s.port .t).state = .active → x.frame.kind = .sync → x.frame.src ≠ s.agent.address →
    let locked := s.trunkSync
    let u := (locked.learn x.frame.src .t).2
    (∀ q, q ≠ .t → s.station x.frame.src = some ⟨q, .pinned⟩ →
      exec (.classification .t) s = .next ((discarded locked .t n rest).count .t .rxGuard)) ∧
    ((∀ q, q ≠ .t → s.station x.frame.src ≠ some ⟨q, .pinned⟩) →
      (x.frame.dest = s.agent.address →
        exec (.classification .t) s = .next ((discarded u .t n rest).count .t .rxLocal)) ∧
      (x.frame.dest ≠ s.agent.address → x.frame.hops = 0 →
        exec (.classification .t) s = .next ((discarded u .t n rest).count .t .rxExpired)) ∧
      (x.frame.dest ≠ s.agent.address → x.frame.hops ≠ 0 → (∀ q, q ≠ .t → (s.port q).state ≠ .active) →
        exec (.classification .t) s = .next ((discarded u .t n rest).count .t .rxUnreach)) ∧
      (x.frame.dest ≠ s.agent.address → x.frame.hops ≠ 0 → (∃ q, q ≠ .t ∧ (s.port q).state = .active) →
        let references :=
          allPorts.countP (fun q =>
            decide (q ≠ .t) && s.isActive q && placedStands (s.port q) x.frame.cls (staleNow s q x))
        ∃ t, exec (.classification .t) s = .next t ∧
          t.rules = s.rules ∧ t.stations = u.stations ∧ t.meters = u.meters ∧ t.sync = u.sync ∧ t.agent = s.agent ∧
          t.notices.sources = u.notices.sources ∧ t.port .t = s.port .t ∧
          (∀ q, q ≠ .t → t.port q =
            if (s.port q).state = .active then placedUnit (s.port q) x.frame.cls n (staleNow s q x) else s.port q) ∧
          t.slot n =
            if references = 0 then none
            else
              some
                { x with
                  frame := Frame.recheck { x.frame with hops := x.frame.hops - 1 }
                  refs := references }))

/-- A MGMT frame to the part's own address on a port in service, whose source passes the guard: refused on a port that does
not allow management; else malformed under 4 bytes; else, when its key is cached, answered with the cached reply byte for
byte in a fresh AGENT slot, or that reply counted lost; else a duplicate, dropped at four queued requests, or taken with the
classification's reference passing to the request; a request that finds the execution position empty in RUNNING is moved
there at once, oldest first (R34, R139 to R141, R144). A MGMT frame to broadcast is offered only as an IDENTIFY on a port
that allows management, with the same checks of its key; whatever they say, and when it is not offered, nothing counted for
that, it goes on to step 5: RX_LISTEN on a LISTEN port, RX_EXPIRED for hop count 0, its slot kept by a taken request (R35,
R37, R38); and on an ACTIVE port with another hop count its decision is carried out as any frame's is, the content of a
taken request's slot rewritten with it (R35, R40 to R51). -/
def Obligations.CaptureRules : Prop :=
  (∀ (p : Port) (s : State) (n : Nat) (rest : List Nat) (x : Slot), AwaitsAlone s p n rest x →
    s.device.state = .running → s.inService p = true → x.frame.kind = .mgmt → x.frame.dest = s.agent.address →
    x.frame.src ≠ s.agent.address → (s.learn x.frame.src p).1 = .goOn →
    let u := (s.learn x.frame.src p).2
    let id := requestId x.frame.payload
    let request : Request := ⟨x.frame.src, id, p, n⟩
    ((s.port p).allowed = false →
      exec (.classification p) s = .next ((discarded u p n rest).count p .rxMgmtRefused)) ∧
    ((s.port p).allowed = true →
      (x.frame.payload.length < 4 →
        exec (.classification p) s = .next
          { discarded u p n rest with agent := { s.agent with reqMalformed := s.agent.reqMalformed + 1 } }) ∧
      (∀ reply, 4 ≤ x.frame.payload.length → s.agent.cached x.frame.src id = some reply →
        (s.lowestFreeSlot = none →
          exec (.classification p) s = .next
            { discarded u p n rest with agent := { s.agent with replyLost := s.agent.replyLost + 1 } }) ∧
        (∀ k, s.lowestFreeSlot = some k → settledAt s p →
          exec (.classification p) s = .next
            { discarded (ownFrameOffered u p k reply) p n rest with
              agent :=
                if 32 ≤ (s.port p).egress.q3.length then { s.agent with replyLost := s.agent.replyLost + 1 }
                else s.agent })) ∧
      (4 ≤ x.frame.payload.length → s.agent.cached x.frame.src id = none →
        (s.agent.duplicate x.frame.src id = true →
          exec (.classification p) s = .next
            { discarded u p n rest with agent := { s.agent with reqDuplicate := s.agent.reqDuplicate + 1 } }) ∧
        (s.agent.duplicate x.frame.src id = false → 4 ≤ s.agent.queue.length →
          exec (.classification p) s = .next
            { discarded u p n rest with agent := { s.agent with reqDropped := s.agent.reqDropped + 1 } }) ∧
        (s.agent.duplicate x.frame.src id = false → s.agent.queue.length < 4 →
          exec (.classification p) s = .next
            { u with
              store :=
                { u.store with slots := put n x s.store.slots, awaiting := s.store.awaiting.set p rest }
              agent :=
                if s.agent.executing = none then
                  { s.agent with
                    queue := (s.agent.queue ++ [request]).tail
                    executing := (s.agent.queue ++ [request]).head? }
                else { s.agent with queue := s.agent.queue ++ [request] } })))) ∧
  ∀ (p : Port) (s : State) (n : Nat) (rest : List Nat) (x : Slot), AwaitsAlone s p n rest x →
    s.device.state = .running → s.inService p = true → x.frame.kind = .mgmt → x.frame.dest = 0xFFFF →
    s.agent.address ≠ 0xFFFF → x.frame.src ≠ s.agent.address → (s.learn x.frame.src p).1 = .goOn →
    let u := (s.learn x.frame.src p).2
    let id := requestId x.frame.payload
    let queue := s.agent.queue ++ [(⟨x.frame.src, id, p, n⟩ : Request)]
    let offered := (s.port p).allowed = true ∧ 4 ≤ x.frame.payload.length ∧ commandCode x.frame.payload = 0x01
    let goesOn (b : State) (y : Slot) (w : State) (a : Agent) : Prop :=
      (∃ t, exec (.classification p) s = .next t ∧ t.agent = a) ∧
      ((s.port p).state = .listen → exec (.classification p) s = .next { w.count p .rxListen with agent := a }) ∧
      ((s.port p).state = .active → x.frame.hops = 0 →
        exec (.classification p) s = .next { w.count p .rxExpired with agent := a }) ∧
      ((s.port p).state = .active → x.frame.hops ≠ 0 → IdleIsEmpty s → SlotsOk s →
        ∃ t, exec (.classification p) s = .next t ∧ DecisionCarriedOut { b with agent := a } p n y t)
    let taken : Slot := { x with refs := 2 }
    (¬ offered → goesOn u x (discarded u p n rest) s.agent) ∧
    (offered → s.agent.cached x.frame.src id = none →
      (s.agent.duplicate x.frame.src id = true →
        goesOn u x (discarded u p n rest) { s.agent with reqDuplicate := s.agent.reqDuplicate + 1 }) ∧
      (s.agent.duplicate x.frame.src id = false → 4 ≤ s.agent.queue.length →
        goesOn u x (discarded u p n rest) { s.agent with reqDropped := s.agent.reqDropped + 1 }) ∧
      (s.agent.duplicate x.frame.src id = false → s.agent.queue.length < 4 →
        goesOn { u with store := { u.store with slots := put n taken s.store.slots } } taken
          { u with
            store := { u.store with slots := put n x s.store.slots, awaiting := s.store.awaiting.set p rest } }
          (if s.agent.executing = none then { s.agent with queue := queue.tail, executing := queue.head? }
            else { s.agent with queue := queue }))) ∧
    (∀ reply, offered → s.agent.cached x.frame.src id = some reply →
      (s.lowestFreeSlot = none →
        goesOn u x (discarded u p n rest) { s.agent with replyLost := s.agent.replyLost + 1 }) ∧
      (∀ k, s.lowestFreeSlot = some k → settledAt s p →
        goesOn (ownFrameOffered u p k reply) x (discarded (ownFrameOffered u p k reply) p n rest)
          (if 32 ≤ (s.port p).egress.q3.length then { s.agent with replyLost := s.agent.replyLost + 1 }
            else s.agent)))

/-- Every CLASSIFICATION answers a next state and leaves what `ClassificationFrame` lists as it was (R28, R51, R52). -/
def Obligations.ClassificationFrameHolds : Prop :=
  ∀ (p : Port) (s : State), ∃ t, exec (.classification p) s = .next t ∧ ClassificationFrame p s t

/-! ## Egress (Chapter 5) -/

/-- A placement into a queue of 32 entries counts TX_QFULL and nothing else; while the transmitter is SENDING any other
joins the tail and takes a reference. A selection at an IDLE transmitter with no residency limit sends the head of class
queue 3 and leaves the round as it is; else it serves the highest member of the open round, which leaves when its share or
its queue ends, and opens a round of the waiting classes when none is open (R98, R100 to R103, R106). -/
def Obligations.PlacementAndSelection : Prop :=
  (∀ (s : State) (p : Port) (c : BitVec 2) (n : Nat),
    (32 ≤ ((s.port p).egress.queue c).length → s.place p c n = s.count p .txQFull) ∧
    (∀ m x, ((s.port p).egress.queue c).length < 32 → (s.port p).egress.transmitter = some m → s.slot n = some x →
      s.place p c n =
        { s.setEgress p ((s.port p).egress.setQueue c ((s.port p).egress.queue c ++ [n])) with
          store := { s.store with slots := put n { x with refs := x.refs + 1 } s.store.slots } })) ∧
  (∀ (s : State) (p : Port), s.inService p = true → (s.port p).egress.transmitter = none →
    (s.port p).egress.residency = 0 →
    let e := (s.port p).egress
    (∀ n rest, e.q3 = n :: rest →
      s.select p = s.setEgress p { e with q3 := rest, transmitter := some n, line := .startMark }) ∧
    (e.q3 = [] →
      (∀ n rest, e.q2 = n :: rest → e.round.left2 ≠ 0 →
        s.select p = s.setEgress p
          { e with
            q2 := rest, transmitter := some n, line := .startMark
            round := { e.round with left2 := if rest = [] then 0 else e.round.left2 - 1 } }) ∧
      (∀ n rest, e.q1 = n :: rest → e.round.left2 = 0 → e.round.left1 ≠ 0 →
        s.select p = s.setEgress p
          { e with
            q1 := rest, transmitter := some n, line := .startMark
            round := { e.round with left1 := if rest = [] then 0 else e.round.left1 - 1 } }) ∧
      (∀ n rest, e.q0 = n :: rest → e.round.left2 = 0 → e.round.left1 = 0 → e.round.left0 ≠ 0 →
        s.select p = s.setEgress p
          { e with
            q0 := rest, transmitter := some n, line := .startMark
            round := ⟨0, 0, if rest = [] then 0 else e.round.left0 - 1⟩ }) ∧
      (∀ n rest, e.round = ⟨0, 0, 0⟩ → e.q2 = n :: rest → e.share2 ≠ 0 →
        s.select p = s.setEgress p
          { e with
            q2 := rest, transmitter := some n, line := .startMark
            round :=
              ⟨if rest = [] then 0 else e.share2 - 1, if e.q1 = [] then 0 else e.share1,
                if e.q0 = [] then 0 else e.share0⟩ }) ∧
      (∀ n rest, e.round = ⟨0, 0, 0⟩ → e.q2 = [] → e.q1 = n :: rest → e.share1 ≠ 0 →
        s.select p = s.setEgress p
          { e with
            q1 := rest, transmitter := some n, line := .startMark
            round := ⟨0, if rest = [] then 0 else e.share1 - 1, if e.q0 = [] then 0 else e.share0⟩ }) ∧
      (∀ n rest, e.round = ⟨0, 0, 0⟩ → e.q2 = [] → e.q1 = [] → e.q0 = n :: rest → e.share0 ≠ 0 →
        s.select p = s.setEgress p
          { e with
            q0 := rest, transmitter := some n, line := .startMark
            round := ⟨0, 0, if rest = [] then 0 else e.share0 - 1⟩ }) ∧
      (e.round = ⟨0, 0, 0⟩ → e.q2 = [] → e.q1 = [] → e.q0 = [] → s.select p = s)))

/-- The head that a selection takes is discarded when its age exceeds a residency limit other than 0, TX_STALE counted and
its reference released; a head whose age equals the limit is sent (R104): first with one AGENT entry in class queue 3 alone.
Then in every class, queue and round: behind a stale head the selection begins again, nothing is taken from a share, and a
member whose queue the discard empties leaves the round; a fresh head is sent (R99 to R104, R106). -/
def Obligations.StaleHeadIsDiscarded : Prop :=
  (∀ (s : State) (p : Port) (n : Nat) (x : Slot), s.inService p = true → (s.port p).egress.transmitter = none →
    (s.port p).egress.residency ≠ 0 → (s.port p).egress.q3 = [n] → (s.port p).egress.q2 = [] →
    (s.port p).egress.q1 = [] → (s.port p).egress.q0 = [] → s.slot n = some x → x.refs = 1 → x.origin = .agent →
    s.device.restartMark ≠ some n → x.accepted ≤ s.store.clock →
    ((s.port p).egress.residency < s.store.clock - x.accepted →
      s.select p =
        { s.setPort p
            { s.port p with
              counters := (s.port p).counters.bump .txStale
              egress := { (s.port p).egress with q3 := [] } } with
          store := { s.store with slots := remove n s.store.slots }
          notices := { s.notices with offerDue := true } }) ∧
    (s.store.clock - x.accepted ≤ (s.port p).egress.residency →
      s.select p =
        s.setEgress p { (s.port p).egress with q3 := [], transmitter := some n, line := .startMark })) ∧
  ∀ (s : State) (p : Port), s.inService p = true → (s.port p).egress.transmitter = none →
    let e := (s.port p).egress
    (∀ c n rest r, TakesHead e c n rest r →
      (staleAt s p n →
        let behind :=
          { e.setQueue c rest with round := if c ≠ 3 ∧ rest = [] then r.setLeft c 0 else r }
        s.select p =
          (((s.setPort p { s.port p with counters := (s.port p).counters.bump .txStale, egress := behind }).reportEnd
            n).releaseRef n).select p) ∧
      (freshAt s p n →
        s.select p =
          s.setEgress p
            { e.setQueue c rest with
              round := if c = 3 then r else r.setLeft c (if rest = [] then 0 else r.left c - 1)
              transmitter := some n
              line := .startMark })) ∧
    ((∀ c n rest r, ¬ TakesHead e c n rest r) → e.round = ⟨0, 0, 0⟩ → s.select p = s)

/-- The end of a transmission counts TX_GOOD and releases the slot, which its last reference frees and another leaves held;
the end of the marked RESTART FULL reply is reported; and a selection follows, whatever classes wait and whatever the
residency limit (R96, R99, R107, R111). With no residency limit the next head of class queue 3 starts at once; with four
empty queues and no round the transmitter stays IDLE. When the slot is freed while the Notice Unit holds a candidate, the
placement of a notice comes before the selection or stays due after it, as R107 leaves open: the free value
`Config.noticeFirst` decides (log entry 8), so either a deferred notice for this port is sent before a lower class, or the
lower class starts first. -/
def Obligations.TransmissionCompletes : Prop :=
  ∀ (s : State) (p : Port) (n : Nat) (x : Slot), s.device.resetHeld = false → s.inService p = true →
    (s.port p).egress.transmitter = some n → s.slot n = some x →
    let e := (s.port p).egress
    let idle : Egress := { e with transmitter := none, line := .endMark }
    let ended (g : Egress) : PortUnit := { s.port p with counters := (s.port p).counters.bump .txGood, egress := g }
    let freed (u : PortUnit) : State :=
      { s.setPort p u with
        store := { s.store with slots := remove n s.store.slots, held := lowerHeld s.store.held x.origin }
        notices := { s.notices with offerDue := true } }
    let lowered (u : PortUnit) : State :=
      { s.setPort p u with
        store := { s.store with slots := put n { x with refs := x.refs - 1 } s.store.slots } }
    let reported (v : State) : State :=
      if s.device.restartMark = some n then
        { v with device := { s.device with restartMark := none, restartDue := true } }
      else v
    (x.refs = 1 → anyCandidate s = false →
      exec (.transmitComplete p) s = .next ((reported (freed (ended idle))).select p)) ∧
    (1 < x.refs → exec (.transmitComplete p) s = .next ((reported (lowered (ended idle))).select p)) ∧
    (x.refs = 1 → s.device.restartMark ≠ some n → anyCandidate s = false →
      (e.q3 = [] → e.q2 = [] → e.q1 = [] → e.q0 = [] → e.round = ⟨0, 0, 0⟩ →
        exec (.transmitComplete p) s = .next (freed (ended idle))) ∧
      (∀ m rest, e.residency = 0 → e.q3 = m :: rest →
        exec (.transmitComplete p) s = .next
          (freed (ended { e with q3 := rest, transmitter := some m, line := .startMark })))) ∧
    (1 < x.refs → s.device.restartMark ≠ some n → ∀ m rest, e.residency = 0 → e.q3 = m :: rest →
      exec (.transmitComplete p) s = .next
        (lowered (ended { e with q3 := rest, transmitter := some m, line := .startMark }))) ∧
    (x.refs = 1 → s.device.restartMark = some n → anyCandidate s = false →
      ∀ m rest, e.residency = 0 → e.q3 = m :: rest →
      exec (.transmitComplete p) s = .next
        { freed (ended { e with q3 := rest, transmitter := some m, line := .startMark }) with
          device := { s.device with restartMark := none, restartDue := true } }) ∧
    (SlotsOk s → x.refs = 1 → anyCandidate s = true →
      let ending : State := { reported (freed (ended idle)) with choices := s.choices + 1 }
      (∃ v, exec .noticeService ending = .next v ∧
        exec (.transmitComplete p) s =
          .next (if Config.noticeFirst s.choices then v.select p else ending.select p)) ∧
      (∀ q m rest, s.lowestFreeSlot = none → eligible s q = true →
        (∀ r, sourceRank r < sourceRank q → eligible s r = false) → (∀ r, (s.source r).resendDue = false) →
        s.notices.port = p → e.residency = 0 → e.q3 = [] → e.round = ⟨0, 0, 0⟩ → e.q2 = m :: rest → e.share2 ≠ 0 →
        ∃ t, exec (.transmitComplete p) s = .next t ∧
          (Config.noticeFirst s.choices = true →
            (t.port p).egress = { e with transmitter := some n, line := .startMark } ∧
            (t.source q).record.isSome = true ∧ ∃ y, t.slot n = some ⟨y, .agent, s.store.clock, 1⟩ ∧ y.kind = .notice) ∧
          (Config.noticeFirst s.choices = false →
            (t.port p).egress =
              { e with
                q2 := rest, transmitter := some m, line := .startMark
                round :=
                  ⟨if rest = [] then 0 else e.share2 - 1, if e.q1 = [] then 0 else e.share1,
                    if e.q0 = [] then 0 else e.share0⟩ } ∧
            t.slot n = none ∧ t.notices.offerDue = true)))

/-! ## Timers and completions -/

/-- The copy's completion leaves the standby bank the image of the working bank with every counter 0 and the copy state
IDLE; the designator, the generation and the working bank stay, and so does everything else (R22). -/
def Obligations.CopyCompletes : Prop :=
  ∀ s : State, s.device.resetHeld = false → s.rules.copying = true →
    ∃ t, exec .copyComplete s = .next t ∧ t.rules.copying = false ∧ t.rules.working = s.rules.working ∧
      t.rules.generation = s.rules.generation ∧
      t.rules.bank s.rules.working = s.rules.bank s.rules.working ∧
      (t.rules.bank s.rules.standby).header = (s.rules.bank s.rules.working).header ∧
      (∀ k, lookup k (t.rules.bank s.rules.standby).positions =
        (lookup k (s.rules.bank s.rules.working).positions).map (fun x => { x with hits := 0 })) ∧
      t = { s with rules := t.rules }

/-- The claim timer's expiry ends the claim and raises CLAIM_EXPIRED with the former holder (R152). The sync timer's expiry
unlocks, stops the timer, raises SYNC_LOST with 0000h, closes the gate and stops every GATED meter's period, the part
elapsed discarded (R79, R132). A BLOCKED port's timer returns it to its commanded mode with an IDLE receiver (R126); an
error window expiry clears the port's error count (R124) and a move window expiry the move count and the storm flag (R60),
and the next interval of 1 s begins. -/
def Obligations.TimersExpire : Prop :=
  (∀ (s : State) (c : Claim), s.device.resetHeld = false → s.agent.claim = some c →
    exec .claimExpiry s = .next
      { s with
        agent := { s.agent with claim := none }
        notices :=
          { s.notices with
            causeDue := true
            sources := s.notices.sources.set .claimExpired
              { s.source .claimExpired with
                pending := true
                occurrences := min 255 ((s.source .claimExpired).occurrences + 1)
                detail := c.holder } } }) ∧
  (∀ s : State, s.device.resetHeld = false → s.sync.locked = true → s.meters.gateOpen = true →
    exec .syncTimerExpiry s = .next
      { s with
        sync := { s.sync with locked := false, timer := none }
        meters := ⟨s.meters.meters.map (fun m => if m.mode = .gated then { m with timer := none } else m), false⟩
        notices :=
          { s.notices with
            causeDue := true
            sources := s.notices.sources.set .syncLost
              { s.source .syncLost with
                pending := true
                occurrences := min 255 ((s.source .syncLost).occurrences + 1)
                detail := 0 } } }) ∧
  (∀ (s : State) (p : Port), s.device.resetHeld = false → (s.port p).state = .blocked →
    ∃ t, exec (.blockTimerExpiry p) s = .next t ∧ t = { s with ports := s.ports.set p (t.port p) } ∧
      t.port p = { s.port p with state := (t.port p).state, blockTimer := none, receiver := .idle } ∧
      ((s.port p).commanded = .listen → (t.port p).state = .listen) ∧
      ((s.port p).commanded = .active → (t.port p).state = .active)) ∧
  (∀ (s : State) (p : Port), s.device.resetHeld = false →
    exec (.errorWindowExpiry p) s = .next (s.setPort p { s.port p with errorCount := 0, errorWindow := 1000 })) ∧
  (∀ s : State, s.device.resetHeld = false →
    exec .moveWindowExpiry s = .next
      { s with stations := { s.stations with moveCount := 0, storm := false, moveWindow := 1000 } })

/-- An aging tick takes one second from every LEARNED age, removes what reaches 0, leaves PINNED entries, and begins a new
interval; nothing else changes (R61). -/
def Obligations.AgingTick : Prop :=
  ∀ s : State, s.device.resetHeld = false → StationsOk s →
    ∃ t, exec .agingTick s = .next t ∧
      t = { s with stations := { s.stations with entries := t.stations.entries, agingClock := 1000 } } ∧
      (∀ a, s.station a = none → t.station a = none) ∧
      (∀ a q, s.station a = some ⟨q, .pinned⟩ → t.station a = some ⟨q, .pinned⟩) ∧
      (∀ a q, s.station a = some ⟨q, .learned 1⟩ → t.station a = none) ∧
      (∀ a q age, s.station a = some ⟨q, .learned (age + 2)⟩ → t.station a = some ⟨q, .learned (age + 1)⟩)

/-- A running period's expiry refills the meter to at most its ceiling and starts a full period; no other meter changes
(R77, R79). A number above 31 names no meter, and the model stops (log entry 15). -/
def Obligations.PeriodExpiry : Prop :=
  ∀ (s : State) (n : Nat),
    (n < 32 → s.device.resetHeld = false → (s.meter n).timer.isSome = true →
      exec (.periodExpiry n) s = .next
        (s.setMeter n
          { s.meter n with
            credit := min (s.meter n).ceiling ((s.meter n).credit + (s.meter n).refill)
            timer := some (s.meter n).period })) ∧
    (32 ≤ n → exec (.periodExpiry n) s = .fault .noSuchMeter)

/-- A resend timer's expiry at attempts 1 to 3 stops the timer and makes the resend due; at attempt 4 the notice is given up,
S cleared and NOTICE_LOST counted, with P, the count and the detail kept. A service event is then due (R187, R191,
R192). -/
def Obligations.ResendTimerExpiry : Prop :=
  ∀ (s : State) (q : Source) (x : NoticeRecord) (ms : Nat), s.device.resetHeld = false →
    (s.source q).timer = some ms → (s.source q).record = some x →
    (x.attempt < 4 →
      exec (.resendTimerExpiry q) s = .next
        { s with
          notices :=
            { s.notices with
              causeDue := true
              sources := s.notices.sources.set q { s.source q with timer := none, resendDue := true } } }) ∧
    (x.attempt = 4 →
      exec (.resendTimerExpiry q) s = .next
        { s with
          notices :=
            { s.notices with
              causeDue := true
              lost := s.notices.lost + 1
              sources := s.notices.sources.set q
                { s.source q with record := none, timer := none, resendDue := false } } })

/-- NOTICE_SERVICE in every case (R186 to R191, R215). None due, or in WAITING a cause other than a slot offer: nothing is
sent. No candidate: the unit is READY. Candidates and no free slot: WAITING, NOTICE_DEFERRED counted when it was READY,
nothing changed at any source. Else the most urgent candidate is served. A first send takes the next sequence that no source
in service has, 255 followed by 1, a record of attempt 1 with the count and the detail, P clear, the count 0, the timer
started. A resend takes the next attempt with its record's sequence, count and detail, resend due clear, the timer
restarted, and leaves P, the count, the detail and the counter. The frame is offered to class queue 3 of the target port:
queued, sent, lost to TX_QFULL, or, out of service, not offered, and the send stands. The service then goes on with the
candidates that are left. One NOTICE_SERVICE takes a due cause and a due slot offer together and clears both flags: the
model's reading (log entry 7). -/
def Obligations.NoticeService : Prop :=
  ∀ s : State, s.device.resetHeld = false →
    (s.notices.causeDue = false → s.notices.offerDue = false → exec .noticeService s = .next s) ∧
    (s.notices.waiting = true → s.notices.causeDue = true → s.notices.offerDue = false →
      exec .noticeService s = .next { s with notices := { s.notices with causeDue := false } }) ∧
    (serviceActs s → (∀ q, ¬ Candidate s q) →
      exec .noticeService s = .next
        { s with notices := { s.notices with causeDue := false, offerDue := false, waiting := false } }) ∧
    (∀ q, serviceActs s → Candidate s q → s.lowestFreeSlot = none →
      exec .noticeService s = .next
        { s with
          notices :=
            { s.notices with
              causeDue := false, offerDue := false, waiting := true
              deferred := if s.notices.waiting then s.notices.deferred else s.notices.deferred + 1 } }) ∧
    (∀ q n, serviceActs s → Candidate s q → (∀ r, sourceRank r < sourceRank q → ¬ Candidate s r) →
      s.lowestFreeSlot = some n → settledAt s s.notices.port →
      let sent (m : Nat) (source : NoticeSource) : State :=
        { s with
          notices :=
            { s.notices with
              causeDue := false, offerDue := false, sequence := m
              sources := s.notices.sources.set q { source with timer := some (s.notices.interval * 10) } } }
      let goesOn (u : State) : Prop :=
        exec .noticeService s = exec .noticeService (withOffer u) ∧
        ((∀ r, ¬ Candidate u r) →
          exec .noticeService s = .next { u with notices := { u.notices with waiting := false } })
      ((s.source q).resendDue = false →
        ∃ m y, NextSequence s m ∧
          let x : NoticeRecord := ⟨m, 1, (s.source q).occurrences, (s.source q).detail⟩
          let u :=
            ownFrameOffered (sent m { s.source q with pending := false, occurrences := 0, record := some x })
              s.notices.port n y
          IsNotice u q x y ∧ goesOn u) ∧
      (∀ z, (s.source q).resendDue = true → (s.source q).record = some z →
        ∃ y,
          let x : NoticeRecord := { z with attempt := z.attempt + 1 }
          let u :=
            ownFrameOffered
              (sent s.notices.sequence { s.source q with resendDue := false, record := some x }) s.notices.port n y
          IsNotice u q x y ∧ goesOn u))

/-! ## Executions (Chapters 7 and 8) -/

/-- IDENTIFY and READ_STATUS answer OK with the records of R160 and R161 in the layout of R214, and change nothing. That the
status record has no field for the station address, which R137 says READ_STATUS returns, is the model's choice (log entry 25):
it follows R161 and R214. -/
def Obligations.IdentifyAndReadStatus : Prop :=
  ∀ (s : State) (r : Request) (f : Frame), Executing s r f →
    (Asks f 0x01 0 →
      Completes .identify s s r f .ok
        (([0x2D, 0x0B, 0x51, 1] : List Byte) ++ wordBytes s.agent.address ++ byte s.agent.restartCount)) ∧
    (Asks f 0x02 0 →
      Completes .readStatus s s r f .ok
        (([1] : List Byte) ++ byte (match s.rules.working with | .a => 0 | .b => 1) ++ byte (if s.rules.copying then 1 else 0) ++
          wordBytes (match s.agent.claim with | none => 0 | some c => c.holder) ++
          byte (match s.agent.claim with | none => 0 | some c => (c.remaining + 999) / 1000) ++
          byte (if s.sync.locked then 1 else 0) ++ byte s.sync.timeout ++ wordBytes s.notices.target ++
          byte (portNumber s.notices.port) ++ byte s.notices.interval ++
          [enableSet s, pendingSet s, inServiceSet s] ++ byte s.agent.queue.length ++
          half (384 - s.store.slots.length) ++
          countBytes s.agent.startupDiscards ++ countBytes s.agent.reqMalformed ++ countBytes s.agent.reqDuplicate ++
          countBytes s.agent.reqDropped ++ countBytes s.agent.replyLost ++
          countBytes s.notices.lost ++ countBytes s.notices.deferred))

/-- CLAIM: BAD_ARG for 0, granted or renewed with no other holder, HELD with the holder and its seconds rounded up. RELEASE:
the holder gives the claim up, any other station is refused. SET_ADDRESS by the holder replaces the address, of which the
reply then comes, unless it is no station address (R147, R150, R151, R162, R163). The claim's refusal of SET_ADDRESS and the
form check's stand in RefusedRequests. -/
def Obligations.ClaimReleaseAddress : Prop :=
  ∀ (s : State) (r : Request) (f : Frame), Executing s r f →
    (Asks f 0x03 1 →
      let d := argByte f.payload 0
      (d = 0 → Completes .claim s s r f .badArg []) ∧
      (d ≠ 0 → (∀ c, s.agent.claim = some c → c.holder = r.source) →
        Completes .claim s { s with agent := { s.agent with claim := some ⟨r.source, d, d * 1000⟩ } } r f .ok
          (wordBytes r.source ++ byte d)) ∧
      (∀ c, d ≠ 0 → s.agent.claim = some c → c.holder ≠ r.source →
        Completes .claim s s r f .held (wordBytes c.holder ++ byte ((c.remaining + 999) / 1000)))) ∧
    (Asks f 0x04 0 →
      (Holder s r →
        Completes .release s { s with agent := { s.agent with claim := none } } r f .ok []) ∧
      (¬ Holder s r → Completes .release s s r f .notHolder [])) ∧
    (Asks f 0x05 2 → Holder s r →
      let a := argWord f.payload 0
      (isStation a = true →
        Completes .setAddress s { s with agent := { s.agent with address := a } } r f .ok []) ∧
      (isStation a = false → Completes .setAddress s s r f .badArg []))

/-- SET_PORT by the holder replaces all nine settings and takes the mode in one event; a port that stays in service, and not
T leaving ACTIVE, keeps its queues, its transmission and, from LISTEN to ACTIVE or back, its reception; a port in service
that is disabled is flushed, which releases the references of its queues and transmitter, and forgets its LEARNED stations;
T leaving ACTIVE stops the sync timer and loses a LOCKED lock with SYNC_LOST 0001h. READ_PORT returns the part it names.
The clearing read copies the 20 counters into the image and zeroes them (R96, R109, R121 to R123, R133, R164, R166,
R167). -/
def Obligations.PortCommands : Prop :=
  ∀ (s : State) (r : Request) (f : Frame) (p : Port), Executing s r f → argByte f.payload 0 = portNumber p →
    let u := s.port p
    let set : PortUnit :=
      { u with
        allowed := decide (argByte f.payload 2 = 1), quota := argHalf f.payload 3
        errorLimit := argByte f.payload 6, blockInterval := argByte f.payload 7
        egress :=
          { u.egress with
            residency := argByte f.payload 5, share2 := argByte f.payload 8
            share1 := argByte f.payload 9, share0 := argByte f.payload 10 } }
    let inRange :=
      argByte f.payload 2 ≤ 1 ∧ 16 ≤ argHalf f.payload 3 ∧ argHalf f.payload 3 ≤ 384 ∧
      1 ≤ argByte f.payload 7 ∧ argByte f.payload 7 ≤ 60 ∧ 1 ≤ argByte f.payload 8 ∧ argByte f.payload 8 ≤ 16 ∧
      1 ≤ argByte f.payload 9 ∧ argByte f.payload 9 ≤ 16 ∧ 1 ≤ argByte f.payload 10 ∧ argByte f.payload 10 ≤ 16
    (Asks f 0x06 11 → Holder s r → inRange →
      (∀ mode, argByte f.payload 1 = modeCode mode → u.state = mode.toState →
        let s' := s.setPort p { set with commanded := mode }
        Completes .setPort s s' r f .ok (byte (portNumber p) ++ portStateBytes (s'.port p) (s.store.held.get p))) ∧
      (∀ mode, argByte f.payload 1 = modeCode mode → mode ≠ .disabled → u.state ≠ mode.toState →
        (p = .t → u.state ≠ .active) →
        let s' := s.setPort p
          { set with
            commanded := mode, state := mode.toState, blockTimer := none
            receiver := if s.inService p then u.receiver else .idle }
        Completes .setPort s s' r f .ok (byte (portNumber p) ++ portStateBytes (s'.port p) (s.store.held.get p))) ∧
      (argByte f.payload 1 = 0 → u.state = .blocked →
        let s' := s.setPort p { set with commanded := .disabled, state := .disabled, blockTimer := none }
        Completes .setPort s s' r f .ok (byte (portNumber p) ++ portStateBytes (s'.port p) (s.store.held.get p))) ∧
      (argByte f.payload 1 = 0 → s.inService p = true → s.device.restartMark = none →
        ∃ s', Completes .setPort s s' r f .ok
            (byte (portNumber p) ++ portStateBytes (s'.port p) (s'.store.held.get p)) ∧
          s'.port p =
            { set with
              commanded := .disabled, state := .disabled, receiver := .idle, errorCount := 0
              counters := if u.egress.transmitter = none then u.counters else u.counters.bump .txAbort
              egress :=
                { set.egress with
                  q3 := [], q2 := [], q1 := [], q0 := [], round := ⟨0, 0, 0⟩, transmitter := none
                  line := if u.egress.transmitter = none then u.egress.line else .abortMark } } ∧
          (∀ q, q ≠ p → s'.port q = s.port q) ∧
          s'.stations =
            { s.stations with
              entries := s.stations.entries.filter (fun e => !(e.2.isLearned && decide (e.2.port = p))) } ∧
          s'.rules = s.rules ∧ s'.agent = s.agent ∧ s'.device = s.device ∧
          (SlotsOk s → HeldOk s → ReferencesReleased (egressRefs s p) s s') ∧
          (∀ q, q ≠ .syncLost → s'.source q = s.source q) ∧
          (¬ (p = .t ∧ u.state = .active) →
            s'.meters = s.meters ∧ s'.sync = s.sync ∧ s'.source .syncLost = s.source .syncLost) ∧
          (p = .t → u.state = .active → s.sync.locked = false →
            s'.meters = s.meters ∧ s'.sync = { s.sync with timer := none } ∧
            s'.source .syncLost = s.source .syncLost) ∧
          (p = .t → u.state = .active → s.sync.locked = true → s.meters.gateOpen = true →
            s'.meters =
              ⟨s.meters.meters.map (fun m => if m.mode = .gated then { m with timer := none } else m), false⟩ ∧
            s'.sync = { s.sync with locked := false, timer := none } ∧
            s'.source .syncLost =
              { s.source .syncLost with
                pending := true
                occurrences := min 255 ((s.source .syncLost).occurrences + 1)
                detail := 1 })) ∧
      (argByte f.payload 1 = 1 → p = .t → u.state = .active → s.sync.locked = false →
        let s' : State :=
          { s with
            ports := s.ports.set .t { set with commanded := .listen, state := .listen, blockTimer := none }
            sync := { s.sync with timer := none } }
        Completes .setPort s s' r f .ok (byte (portNumber p) ++ portStateBytes (s'.port p) (s.store.held.get p))) ∧
      (argByte f.payload 1 = 1 → p = .t → u.state = .active → s.sync.locked = true → s.meters.gateOpen = true →
        ∃ s', Completes .setPort s s' r f .ok
            (byte (portNumber p) ++ portStateBytes (s'.port p) (s.store.held.get p)) ∧
          s' =
            { s with
              ports := s.ports.set .t { set with commanded := .listen, state := .listen, blockTimer := none }
              sync := { s.sync with locked := false, timer := none }
              meters :=
                ⟨s.meters.meters.map (fun m => if m.mode = .gated then { m with timer := none } else m), false⟩
              notices :=
                { s.notices with
                  causeDue := true
                  sources := s.notices.sources.set .syncLost
                    { s.source .syncLost with
                      pending := true
                      occurrences := min 255 ((s.source .syncLost).occurrences + 1)
                      detail := 1 } } })) ∧
    (Asks f 0x06 11 → Holder s r → ¬ inRange ∨ 2 < argByte f.payload 1 →
      Completes .setPort s s r f .badArg []) ∧
    (Asks f 0x07 2 → clearFlag f.payload = false →
      let part := argByte f.payload 1
      (part = 0 → Completes .readPort s s r f .ok
        (byte (portNumber p) ++ byte 0 ++ portStateBytes u (s.store.held.get p))) ∧
      (part = 1 → Completes .readPort s s r f .ok (byte (portNumber p) ++ byte 1 ++ countsOne u.counters)) ∧
      (part = 2 → Completes .readPort s s r f .ok (byte (portNumber p) ++ byte 2 ++ countsTwo u.counters)) ∧
      (part = 3 → Completes .readPort s s r f .ok (byte (portNumber p) ++ byte 3 ++ countsOne u.image)) ∧
      (part = 4 → Completes .readPort s s r f .ok (byte (portNumber p) ++ byte 4 ++ countsTwo u.image)) ∧
      (4 < part → Completes .readPort s s r f .badArg [])) ∧
    (Asks f 0x07 2 → clearFlag f.payload = true → Holder s r →
      let part := argByte f.payload 1
      let s' := s.setPort p { u with image := u.counters, counters := .zero }
      (part = 1 → Completes .readPortClear s s' r f .ok (byte (portNumber p) ++ byte 1 ++ countsOne u.counters)) ∧
      (part = 2 → Completes .readPortClear s s' r f .ok (byte (portNumber p) ++ byte 2 ++ countsTwo u.counters)) ∧
      (part = 0 ∨ 2 < part → Completes .readPortClear s s r f .badArg []))

/-- The commands on one bank. While no copy runs, WRITE_RULE stores a legal record with its counter 0 and refuses another
with the detail of the first test it fails; CLEAR_RULE empties one position or all; WRITE_BANK_HEAD replaces the header; each on the standby bank
alone. READ_RULE returns a position and the header of the working bank, and while no copy runs of either bank, and changes
nothing (R15, R16, R18 to R20, R169, R170). That bits 7 to 3 of READ_RULE's bank byte are 0 is the model's choice (log entry
26): R214 names bits 0 to 2 only. -/
def Obligations.RuleCommands : Prop :=
  ∀ (s : State) (r : Request) (f : Frame), Executing s r f →
    let name := otherBank s.rules.working
    let k := s.rules.bank name
    let withStandby (b : Bank) : State := { s with rules := s.rules.setBank name b }
    let record := (arguments f.payload).drop 1
    let n := argByte f.payload 0
    (s.rules.copying = false →
      (Asks f 0x0A 3 → formOk f.payload (1 + recordLength record) = true → Holder s r →
        (n < 128 → recordReservedClear record = true →
          (∀ rule, readRuleRecord record = .ok rule →
            Completes .writeRule s (withStandby { k with positions := put n ⟨rule, 0⟩ k.positions }) r f .ok
              (byte (bankCode name) ++ byte n)) ∧
          (∀ d, firstFailure record = some d →
            Completes .writeRule s s r f .badRule (byte d.code ++ byte d.index))) ∧
        (128 ≤ n ∨ recordReservedClear record = false → Completes .writeRule s s r f .badArg [])) ∧
      (Asks f 0x0B 1 → Holder s r →
        (n < 128 →
          Completes .clearRule s (withStandby { k with positions := remove n k.positions }) r f .ok
            (byte (bankCode name) ++ byte (if (lookup n k.positions).isSome then 1 else 0))) ∧
        (n = 255 →
          Completes .clearRule s (withStandby { k with positions := [] }) r f .ok
            (byte (bankCode name) ++ byte k.positions.length)) ∧
        (128 ≤ n → n < 255 → Completes .clearRule s s r f .badArg [])) ∧
      (Asks f 0x08 1 → Holder s r →
        (∀ h, argByte f.payload 0 = headerCode h →
          Completes .writeBankHead s (withStandby { k with header := h }) r f .ok (byte (bankCode name))) ∧
        ((∀ h, argByte f.payload 0 ≠ headerCode h) → Completes .writeBankHead s s r f .badArg []))) ∧
    (Asks f 0x0C 2 → ∀ bank, argByte f.payload 0 = bankCode bank →
      let m := argByte f.payload 1
      let x := lookup m (s.rules.bank bank).positions
      (m < 128 → s.rules.copying = false ∨ bank = s.rules.working →
        Completes .readRule s s r f .ok
          (byte (bankCode s.rules.working + 2 * bankCode bank + (if x.isSome then 4 else 0)) ++ byte m ++
            byte (headerCode (s.rules.bank bank).header) ++
            (match x with | none => [0, 0, 0, 0] | some y => countBytes y.hits ++ ruleBytes y.rule))) ∧
      (128 ≤ m → Completes .readRule s s r f .badArg []))

/-- COPY_BANK only starts the copy. SWITCH_BANK exchanges the designator and increments the generation, wrapping, when the
expected generation is the current one, and is STALE otherwise; neither touches what a bank holds. While a copy runs
the five commands that would change a bank or switch are BUSY whatever their arguments hold, and READ_RULE of a position of
the standby bank is BUSY (R20 to R25). -/
def Obligations.BankCommands : Prop :=
  ∀ (s : State) (r : Request) (f : Frame), Executing s r f →
    (s.rules.copying = false → Holder s r →
      (Asks f 0x0D 0 →
        Completes .copyBank s { s with rules := { s.rules with copying := true } } r f .ok
          (byte (bankCode (otherBank s.rules.working)))) ∧
      (Asks f 0x0E 2 →
        (argWord f.payload 0 = s.rules.generation →
          Completes .switchBank s
            { s with
              rules := { s.rules with working := otherBank s.rules.working, generation := s.rules.generation + 1 } }
            r f .ok (byte (bankCode (otherBank s.rules.working)))) ∧
        (argWord f.payload 0 ≠ s.rules.generation → Completes .switchBank s s r f .stale []))) ∧
    (s.rules.copying = true →
      (Holder s r →
        (Asks f 0x0D 0 → Completes .copyBank s s r f .busy []) ∧
        (Asks f 0x0E 2 → Completes .switchBank s s r f .busy []) ∧
        (Asks f 0x08 1 → Completes .writeBankHead s s r f .busy []) ∧
        (Asks f 0x0B 1 → Completes .clearRule s s r f .busy []) ∧
        (Asks f 0x0A 3 → formOk f.payload (1 + recordLength ((arguments f.payload).drop 1)) = true →
          Completes .writeRule s s r f .busy [])) ∧
      (Asks f 0x0C 2 → argByte f.payload 1 < 128 → argByte f.payload 0 = bankCode (otherBank s.rules.working) →
        Completes .readRule s s r f .busy []))

/-- WRITE_STATION pins, converts or moves an entry, or is FULL; DELETE_STATION removes one, or is NOT_FOUND;
FLUSH_STATIONS removes the LEARNED entries of a port or of all; READ_STATION by address and by index returns entries with
the three figures; SET_AGING replaces both values and caps the LEARNED ages. Nothing but the table changes (R64 to R69,
R172 to R175). The claim's refusal, the form check's and that of a form above 1 stand in RefusedRequests. -/
def Obligations.StationCommands : Prop :=
  ∀ (s : State) (r : Request) (f : Frame), Executing s r f →
    let table := s.stations
    let withEntries (l : List (Nat × StationEntry)) : State := { s with stations := { table with entries := l } }
    let figures := half table.entries.length ++ half table.ageLimit ++ byte table.threshold
    (Asks f 0x0F 3 → Holder s r →
      let a := argWord f.payload 0
      (∀ q, isStation a = true → argByte f.payload 2 = portNumber q →
        (s.station a ≠ none ∨ table.entries.length < 256 →
          Completes .writeStation s (withEntries (put a.toNat ⟨q, .pinned⟩ table.entries)) r f .ok
            (wordBytes a ++ byte (portNumber q) ++ byte 2 ++ half 0 ++
              (match s.station a with
                | none => [0, 0, 0, 0]
                | some ⟨b, .learned age⟩ => byte 1 ++ byte (portNumber b) ++ half age
                | some ⟨b, .pinned⟩ => byte 2 ++ byte (portNumber b) ++ half 0))) ∧
        (s.station a = none → 256 ≤ table.entries.length → Completes .writeStation s s r f .full [])) ∧
      (isStation a = false ∨ 4 < argByte f.payload 2 → Completes .writeStation s s r f .badArg [])) ∧
    (Asks f 0x10 2 → Holder s r →
      let a := argWord f.payload 0
      (isStation a = true →
        (∀ e, s.station a = some e →
          Completes .deleteStation s (withEntries (remove a.toNat table.entries)) r f .ok (stationBytes a.toNat e)) ∧
        (s.station a = none → Completes .deleteStation s s r f .notFound [])) ∧
      (isStation a = false → Completes .deleteStation s s r f .badArg [])) ∧
    (Asks f 0x11 1 → Holder s r →
      (∀ q, argByte f.payload 0 = portNumber q →
        let kept := table.entries.filter (fun e => !(e.2.isLearned && decide (e.2.port = q)))
        Completes .flushStations s (withEntries kept) r f .ok (half (table.entries.length - kept.length))) ∧
      (argByte f.payload 0 = 255 →
        let kept := table.entries.filter (fun e => !e.2.isLearned)
        Completes .flushStations s (withEntries kept) r f .ok (half (table.entries.length - kept.length))) ∧
      (4 < argByte f.payload 0 → argByte f.payload 0 < 255 → Completes .flushStations s s r f .badArg [])) ∧
    (Asks f 0x1A 3 → argByte f.payload 0 = 0 →
      let a := argWord f.payload 1
      (isStation a = true →
        (∀ e, s.station a = some e →
          Completes .readStationAddress s s r f .ok (figures ++ stationBytes a.toNat e)) ∧
        (s.station a = none → Completes .readStationAddress s s r f .notFound figures)) ∧
      (isStation a = false → Completes .readStationAddress s s r f .badArg [])) ∧
    (Asks f 0x1A 3 → argByte f.payload 0 = 1 →
      let i := argHalf f.payload 1
      (i ≤ 255 →
        let found := (table.entries.drop i).take 6
        Completes .readStationIndex s s r f .ok
          (figures ++ byte i ++ byte found.length ++ found.flatMap (fun e => stationBytes e.1 e.2))) ∧
      (255 < i → Completes .readStationIndex s s r f .badArg [])) ∧
    (Asks f 0x12 3 → Holder s r →
      let limit := argHalf f.payload 0
      let threshold := argByte f.payload 2
      (1 ≤ limit → limit ≤ 4095 → 1 ≤ threshold →
        Completes .setAging s
          { s with
            stations :=
              { table with
                ageLimit := limit
                threshold := threshold
                entries := table.entries.map (fun e =>
                  (e.1,
                    match e.2.kind with
                    | .pinned => e.2
                    | .learned age => { e.2 with kind := .learned (min age limit) })) } }
          r f .ok
          (half limit ++ byte threshold ++
            half (table.entries.countP (fun e =>
              match e.2.kind with
              | .pinned => false
              | .learned age => decide (limit < age))))) ∧
      (limit = 0 ∨ 4095 < limit ∨ threshold = 0 → Completes .setAging s s r f .badArg []))

/-- SET_METER replaces a configuration, fills the credit, arms the meter, zeroes its counters and starts its timer as its mode
and the gate call for; to OFF it writes the zero configuration; REARM_METER restores a SINGLE meter's budget and arm state
and refuses any other; READ_METER returns the record, and the clearing read zeroes the two counters after it (R83 to R85,
R176, R177). -/
def Obligations.MeterCommands : Prop :=
  ∀ (s : State) (r : Request) (f : Frame), Executing s r f →
    let n := argByte f.payload 0
    let m := s.meter n
    let withMeter (x : Meter) : State :=
      { s with meters := { s.meters with meters := s.meters.meters.set n x } }
    (Asks f 0x19 10 → Holder s r →
      let mode := argByte f.payload 1
      let ceiling := argHalf f.payload 2
      let refill := argHalf f.payload 4
      let period := argHalf f.payload 6
      let ok := n < 32 ∧ ceiling ≠ 0 ∧ refill ≠ 0 ∧ period ≠ 0 ∧ argByte f.payload 8 ≤ 1 ∧ argByte f.payload 9 ≤ 1
      let set (md : MeterMode) (timer : Option Nat) : Meter :=
        ⟨md, ceiling, refill, period, if argByte f.payload 8 = 0 then .drop else .demote,
          decide (argByte f.payload 9 = 1), ceiling, .armed, timer, 0, 0⟩
      let done (x : Meter) : Prop :=
        Completes .setMeter s (withMeter x) r f .ok (meterBytes n x s.meters.gateOpen)
      (n < 32 → mode = 0 → done ⟨.off, 0, 0, 0, .drop, false, 0, .armed, none, 0, 0⟩) ∧
      (ok → mode = 1 → done (set .continuous (some period))) ∧
      (ok → mode = 2 → done (set .single none)) ∧
      (ok → mode = 3 → done (set .gated (if s.meters.gateOpen then some period else none))) ∧
      (32 ≤ n ∨ 3 < mode ∨ (mode ≠ 0 ∧ ¬ ok) → Completes .setMeter s s r f .badArg [])) ∧
    (Asks f 0x13 1 → Holder s r →
      (n < 32 → m.mode = .single →
        Completes .rearmMeter s (withMeter { m with credit := m.ceiling, arm := .armed }) r f .ok
          (byte n ++ byte (match m.arm with | .armed => 0 | .spent => 1) ++ half m.credit)) ∧
      (32 ≤ n ∨ m.mode ≠ .single → Completes .rearmMeter s s r f .badArg [])) ∧
    (Asks f 0x14 1 → clearFlag f.payload = false →
      (n < 32 → Completes .readMeter s s r f .ok (meterBytes n m s.meters.gateOpen)) ∧
      (32 ≤ n → Completes .readMeter s s r f .badArg [])) ∧
    (Asks f 0x14 1 → clearFlag f.payload = true → Holder s r →
      (n < 32 →
        Completes .readMeterClear s (withMeter { m with conform := 0, exceeded := 0 }) r f .ok
          (meterBytes n m s.meters.gateOpen)) ∧
      (32 ≤ n → Completes .readMeterClear s s r f .badArg []))

/-- R178: SET_SYNC needs the claim; a timeout of 0 is BAD_ARG and changes nothing; otherwise the timeout is replaced, a LOCKED
lock's remaining time capped to it, the lock kept, and the reply returns the timeout, the lock and the time remaining. -/
def Obligations.SetSync : Prop :=
  ∀ (s : State) (r : Request) (f : Frame), Executing s r f → Asks f 0x15 1 →
    let timeout := argByte f.payload 0
    let timer := if s.sync.locked = true then s.sync.timer.map (fun n => min timeout n) else s.sync.timer
    (¬ Holder s r → Completes .setSync s s r f .notHolder []) ∧
    (Holder s r → timeout = 0 → Completes .setSync s s r f .badArg []) ∧
    (Holder s r → 1 ≤ timeout → timeout ≤ 255 →
      Completes .setSync s { s with sync := { s.sync with timeout := timeout, timer := timer } } r f .ok
        (byte timeout ++ byte (if s.sync.locked then 1 else 0) ++
          byte (match timer with | none => 0 | some n => n)))

/-- SET_NOTICE replaces its four settings; a change of target address or port abandons every notice in service, with no
loss counted and the counts and details kept; an unchanged target abandons nothing; a service event is due; a WAITING unit
left without a candidate is READY. NOTICE_ACK is judged against the target: NOT_TARGET, BAD_ARG for 0, STALE for a
sequence that no source in service has, else S is cleared, the timer stopped and the rank returned (R179 to R181, R187,
R193, R195, R196). The claim's refusal of SET_NOTICE and the form check's stand in RefusedRequests. -/
def Obligations.NoticeCommands : Prop :=
  ∀ (s : State) (r : Request) (f : Frame), Executing s r f →
    (Asks f 0x16 5 → Holder s r →
      let target := argWord f.payload 0
      let interval := argByte f.payload 4
      let set := byteAt (arguments f.payload) 3
      (∀ p, argByte f.payload 2 = portNumber p → target = 0 ∨ isStation target = true → interval ≠ 0 →
        ∃ s', Completes .setNotice s s' r f .ok
            (wordBytes target ++ byte (portNumber p) ++ [set] ++ byte interval ++ [pendingSet s', inServiceSet s']) ∧
          s' = { s with notices := s'.notices } ∧
          s'.notices.target = target ∧ s'.notices.port = p ∧ s'.notices.interval = interval ∧
          s'.notices.sequence = s.notices.sequence ∧ s'.notices.lost = s.notices.lost ∧
          s'.notices.deferred = s.notices.deferred ∧ s'.notices.causeDue = true ∧
          s'.notices.waiting = (s.notices.waiting && anyCandidate s') ∧ enableSet s' = set ∧
          (target = s.notices.target ∧ p = s.notices.port →
            ∀ q, s'.source q = { s.source q with enabled := (s'.source q).enabled }) ∧
          (target ≠ s.notices.target ∨ p ≠ s.notices.port →
            ∀ q, s'.source q =
              { s.source q with
                enabled := (s'.source q).enabled, record := none, timer := none, resendDue := false })) ∧
      (4 < argByte f.payload 2 ∨ (target ≠ 0 ∧ isStation target = false) ∨ interval = 0 →
        Completes .setNotice s s r f .badArg [])) ∧
    (commandCode f.payload = 0x17 → s.notices.target = 0 ∨ r.source ≠ s.notices.target →
      Completes .noticeAck s s r f .notTarget []) ∧
    (Asks f 0x17 1 → s.notices.target ≠ 0 → r.source = s.notices.target →
      let n := argByte f.payload 0
      (n = 0 → Completes .noticeAck s s r f .badArg []) ∧
      (n ≠ 0 → (∀ q x, (s.source q).record = some x → x.sequence ≠ n) → Completes .noticeAck s s r f .stale []) ∧
      (∀ q x, n ≠ 0 → SequencesOk s → (s.source q).record = some x → x.sequence = n →
        ∃ s', Completes .noticeAck s s' r f .ok (byte (sourceRank q)) ∧
          s' = { s with notices := s'.notices } ∧
          s'.source q = { s.source q with record := none, timer := none, resendDue := false } ∧
          (∀ b, b ≠ q → s'.source b = s.source b) ∧ s'.notices.causeDue = true ∧
          s'.notices.waiting = (s.notices.waiting && anyCandidate s') ∧
          s'.notices = { s'.notices with
            target := s.notices.target, port := s.notices.port, interval := s.notices.interval
            sequence := s.notices.sequence, lost := s.notices.lost, deferred := s.notices.deferred }))

/-- RESTART TRAFFIC by the holder, in its one event: every hit counter 0; LEARNED entries, move count and storm flag
cleared; every meter at its ceiling, ARMED, its counters 0, its period restarted; every egress stopped and every counter
and error count 0; every source cleared but for E; the device stays RUNNING, and the rules, PINNED entries, settings,
lock, claim, cache and queue are kept (R26, R70, R87, R110, R135, R156, R198, R207). In the Frame Store the references of
every queue and transmitter are released, and those of the request queue and of the frames that await classification are
kept: a slot that only egresses held is free, every other keeps its content and the rest of its references, and the held
counts follow (R93, R96, R110). -/
def Obligations.RestartTraffic : Prop :=
  ∀ (s : State) (r : Request) (f : Frame), Executing s r f → Asks f 0x18 1 → argByte f.payload 0 = 1 → Holder s r →
    s.device.restartMark = none →
    ∃ s', Completes .restartTraffic s s' r f .ok [] ∧
      (∀ bank, (s'.rules.bank bank).header = (s.rules.bank bank).header ∧
        ∀ k, lookup k (s'.rules.bank bank).positions =
          (lookup k (s.rules.bank bank).positions).map (fun x => { x with hits := 0 })) ∧
      s'.rules.working = s.rules.working ∧ s'.rules.generation = s.rules.generation ∧
      s'.rules.copying = s.rules.copying ∧
      s'.stations =
        { s.stations with
          entries := s.stations.entries.filter (fun e => !e.2.isLearned), moveCount := 0, storm := false } ∧
      s'.meters =
        ⟨s.meters.meters.map (fun m =>
          { m with
            credit := m.ceiling, arm := .armed, conform := 0, exceeded := 0
            timer :=
              match m.mode with
              | .off => none
              | .single => none
              | .continuous => some m.period
              | .gated => if s.meters.gateOpen = true then some m.period else none }), s.meters.gateOpen⟩ ∧
      (∀ p, s'.port p =
        { s.port p with
          counters := .zero
          errorCount := 0
          egress :=
            { (s.port p).egress with
              q3 := [], q2 := [], q1 := [], q0 := [], round := ⟨0, 0, 0⟩, transmitter := none
              line := if (s.port p).egress.transmitter = none then (s.port p).egress.line else .abortMark } }) ∧
      (SlotsOk s → HeldOk s → ReferencesReleased (allEgressRefs s) s s') ∧
      s'.store.awaiting = s.store.awaiting ∧ s'.store.clock = s.store.clock ∧ s'.sync = s.sync ∧
      s'.agent = s.agent ∧ s'.device = s.device ∧
      (∀ q, s'.source q = ⟨(s.source q).enabled, false, 0, 0, none, none, false⟩) ∧ s'.notices.waiting = false ∧
      s'.notices.target = s.notices.target ∧ s'.notices.port = s.notices.port ∧
      s'.notices.interval = s.notices.interval ∧ s'.notices.sequence = s.notices.sequence ∧
      s'.notices.lost = s.notices.lost ∧ s'.notices.deferred = s.notices.deferred

/-- RESTART FULL by the holder makes the device RESTARTING; its reply returns the restart count before the increment, is
cached, and is marked in the slot where it was placed, or, when it cannot be placed, its loss is reported at once; the
requests that wait stay in the queue, and the execution position is empty (R111, R144, R183, R204). -/
def Obligations.RestartFull : Prop :=
  ∀ (s : State) (r : Request) (f : Frame), Executing s r f → Asks f 0x18 1 → argByte f.payload 0 = 0 → Holder s r →
    s.device.restartMark = none → s.device.restartDue = false →
    ∃ t, exec .restartFull s = .next t ∧ t.device.state = .restarting ∧
      (replyCannotBePlaced s r.port →
        t.device.restartMark = none ∧ t.device.restartDue = true ∧ t.agent.replyLost = s.agent.replyLost + 1) ∧
      (¬ replyCannotBePlaced s r.port →
        t.device.restartMark = s.lowestFreeSlot ∧ t.device.restartDue = false ∧
        t.agent.replyLost = s.agent.replyLost) ∧
      t.device.sweeping = s.device.sweeping ∧ t.device.resetHeld = false ∧
      t.agent.executing = none ∧ t.agent.queue = s.agent.queue ∧ t.agent.restartCount = s.agent.restartCount ∧
      t.agent.claim = renewedClaim r.source s.agent.claim ∧
      Answered s t r f .ok (byte s.agent.restartCount) ∧
      t.rules = s.rules ∧ t.stations = s.stations ∧ t.meters = s.meters ∧ t.sync = s.sync ∧
      t.store.awaiting = s.store.awaiting ∧ ∀ q, q ≠ r.port → t.port q = s.port q

/-- A request with none of the 25 command codes is answered UNKNOWN; a command that needs the claim is answered NOT_HOLDER
to any other station, whatever its arguments; a must-be-zero flag, too few bytes of arguments, a port above 4, a bank above
1 or a form or restart kind above 1 is BAD_ARG; and a refused request changes nothing but what steps 4 to 6 of R145 do
(R145, R153, R154, R158). That a READ_STATION or RESTART whose form byte is absent or names neither form is taken by either
of its two rows is the model's choice (log entry 6). -/
def Obligations.RefusedRequests : Prop :=
  ∀ (s : State) (r : Request) (f : Frame), Executing s r f →
    (commandCode f.payload = 0 ∨ commandCode f.payload = 0x09 ∨ 0x1B ≤ (commandCode f.payload).toNat →
      Completes .unknownCommand s s r f .unknown []) ∧
    (∀ c ∈ claimCommands, commandCode f.payload = c.2.1 →
      (¬ Holder s r → Completes c.1 s s r f .notHolder []) ∧
      (Holder s r → formOk f.payload c.2.2 = false → Completes c.1 s s r f .badArg [])) ∧
    (∀ c ∈ openCommands, commandCode f.payload = c.2.1 → formOk f.payload c.2.2 = false →
      Completes c.1 s s r f .badArg []) ∧
    (∀ c ∈ readCommands, commandCode f.payload = c.2.2.1 →
      (clearFlag f.payload = false → formOk f.payload c.2.2.2 = false → Completes c.1 s s r f .badArg []) ∧
      (clearFlag f.payload = true → ¬ Holder s r → Completes c.2.1 s s r f .notHolder []) ∧
      (clearFlag f.payload = true → Holder s r → formOk f.payload c.2.2.2 = false →
        Completes c.2.1 s s r f .badArg [])) ∧
    (commandCode f.payload = 0x1A → formOk f.payload 3 = false ∨ 1 < argByte f.payload 0 →
      (argByte f.payload 0 ≠ 1 → Completes .readStationAddress s s r f .badArg []) ∧
      (argByte f.payload 0 ≠ 0 → Completes .readStationIndex s s r f .badArg [])) ∧
    (commandCode f.payload = 0x18 → ¬ Holder s r →
      (argByte f.payload 0 = 1 → Completes .restartTraffic s s r f .notHolder []) ∧
      (argByte f.payload 0 ≠ 1 → Completes .restartFull s s r f .notHolder [])) ∧
    (commandCode f.payload = 0x18 → Holder s r → formOk f.payload 1 = false ∨ 1 < argByte f.payload 0 →
      (argByte f.payload 0 ≠ 0 → Completes .restartTraffic s s r f .badArg []) ∧
      (argByte f.payload 0 ≠ 1 → Completes .restartFull s s r f .badArg [])) ∧
    (commandCode f.payload = 0x17 → s.notices.target ≠ 0 → r.source = s.notices.target → formOk f.payload 1 = false →
      Completes .noticeAck s s r f .badArg []) ∧
    (Asks f 0x0A 3 → Holder s r → formOk f.payload (1 + recordLength ((arguments f.payload).drop 1)) = false →
      Completes .writeRule s s r f .badArg []) ∧
    (4 < argByte f.payload 0 →
      (Asks f 0x06 11 → Holder s r → Completes .setPort s s r f .badArg []) ∧
      (Asks f 0x07 2 → clearFlag f.payload = false → Completes .readPort s s r f .badArg []) ∧
      (Asks f 0x07 2 → clearFlag f.payload = true → Holder s r → Completes .readPortClear s s r f .badArg [])) ∧
    (Asks f 0x0C 2 → 1 < argByte f.payload 0 → Completes .readRule s s r f .badArg [])

/-- The reply of an IDENTIFY from a port in service with a free slot takes the lowest free slot as an AGENT slot accepted now,
with one reference: it joins the tail of class queue 3 while the transmitter is SENDING, and is sent at once by an IDLE
transmitter with empty queues; it is the reply that entered the cache. The request's slot gives up one reference and is free
when that was the last (R96, R145, R147, R148). Of all 30 execution rows: at least one takes whatever request stands in the
execution position, and the reply of each that takes it enters the cache and is placed as it was cached, or is lost and
counted (R145 to R149). That a row which does not take the request leaves the part as it is is the model's choice (log
entry 3), and so is that both rows of READ_STATION, or of RESTART, take a request whose form byte is absent or names neither
form (log entry 6). -/
def Obligations.ReplyIsPlaced : Prop :=
  (∀ (s : State) (r : Request) (f : Frame) (n : Nat), Executing s r f → Asks f 0x01 0 → SlotsOk s →
    s.lowestFreeSlot = some n → s.inService r.port = true → (s.port r.port).egress.q3.length < 32 →
    ∃ t reply, exec .identify s = .next t ∧
      reply.dest = r.source ∧ reply.src = s.agent.address ∧ reply.kind = .reply ∧ reply.cls = 3 ∧ reply.tag = none ∧
      reply.hops = 15 ∧ reply.seq = f.seq ∧ reply.check = crc reply.body ∧
      Answered s t r f .ok
        (([0x2D, 0x0B, 0x51, 1] : List Byte) ++ wordBytes s.agent.address ++ byte s.agent.restartCount) ∧
      t.agent.cache.getLast? = some ⟨r.source, r.id, reply⟩ ∧
      (∀ m, (s.port r.port).egress.transmitter = some m →
        t.slot n = some ⟨reply, .agent, s.store.clock, 1⟩ ∧
        t.port r.port =
          { s.port r.port with
            egress := { (s.port r.port).egress with q3 := (s.port r.port).egress.q3 ++ [n] } } ∧
        ∀ x, s.slot r.slot = some x →
          t.slot r.slot = if x.refs ≤ 1 then none else some { x with refs := x.refs - 1 }) ∧
      ((s.port r.port).egress.transmitter = none → (s.port r.port).egress.queued = 0 →
        t.slot n = some ⟨reply, .agent, s.store.clock, 1⟩ ∧
        t.port r.port =
          { s.port r.port with
            egress := { (s.port r.port).egress with transmitter := some n, line := .startMark } })) ∧
  ∀ (s : State) (r : Request) (f : Frame), Executing s r f → SlotsOk s → RefsOk s →
    (∀ i ∈ executions, exec i s = .next s ∨ ∃ t, exec i s = .next t ∧ ReplyTaken s t r f) ∧
    ∃ i ∈ executions, ∃ t, exec i s = .next t ∧ ReplyTaken s t r f

/-! ## What every step keeps -/

/-- Every step keeps the Frame Store and the Station Table in their forms: slots 0 to 383 once each, at most 256 entries in
ascending order with no address twice, and each held count the number of slots with that arrival attribute (R53, R54,
R89, R93). -/
def Obligations.StepKeepsTheStores : Prop :=
  ∀ s t : State, SlotsOk s → StationsOk s → HeldOk s → step s = .next t → SlotsOk t ∧ StationsOk t ∧ HeldOk t

/-- Every step keeps both banks in their form, positions 0 to 127 once each, and every stored rule legal (R1, R15, R16). -/
def Obligations.StepKeepsTheBanks : Prop :=
  ∀ s t : State, BanksOk s → RulesOk s → step s = .next t → BanksOk t ∧ RulesOk t

/-- Every step keeps 32 meters, every credit within its ceiling, only SINGLE meters (and meters a reset made OFF) SPENT, and
the period timers running exactly where R77 to R79 and R82 have them run (R72, R73). -/
def Obligations.StepKeepsTheMeters : Prop :=
  ∀ s t : State, MetersOk s → ArmOk s → PeriodTimersOk s → step s = .next t → MetersOk t ∧ ArmOk t ∧ PeriodTimersOk t

/-- Every step keeps each port state equal to the commanded mode or BLOCKED, T never BLOCKED; the gate OPEN exactly while the
lock is LOCKED, the lock LOCKED only while T is ACTIVE; and the sync timer running exactly while it is LOCKED (R80, R120,
R127, R131 to R133). -/
def Obligations.StepKeepsPortStatesAndLock : Prop :=
  ∀ s t : State, PortStatesOk s → GateOk s → SyncTimerOk s → step s = .next t →
    PortStatesOk t ∧ GateOk t ∧ SyncTimerOk t

/-- Between events: no class queue holds more than 32 entries; an IDLE transmitter has four empty queues; a round's members
have entries; and a port out of service has an IDLE receiver, an IDLE transmitter and empty queues (R97, R99, R102, R109,
R122). -/
def Obligations.StepKeepsTheEgresses : Prop :=
  ∀ s t : State, QueuesOk s → IdleIsEmpty s → OutOfServiceOk s → step s = .next t →
    QueuesOk t ∧ IdleIsEmpty t ∧ OutOfServiceOk t

/-- Every step keeps the request queue within 4 and the cache within 8, one entry at most for a key in cache, execution
position and queue together, a station address, and the sequences of the sources in service distinct and 1 to 255 (R137,
R143, R149, R188). -/
def Obligations.StepKeepsTheAgentAndSequences : Prop :=
  ∀ s t : State, AgentDepthsOk s → KeysOk s → AddressOk s → SequencesOk s → step s = .next t →
    AgentDepthsOk t ∧ KeysOk t ∧ AddressOk t ∧ SequencesOk t

/-- Every step keeps each slot's reference count equal to the number of its holders, and every held slot referred to (R89,
R91). From the start of a reset to the end of its sweep there are no holders: the spec ends those references at the sweep
(R113), and that the holders end with the reset's start is the model's reading (log entry 19). -/
def Obligations.StepKeepsTheReferences : Prop :=
  ∀ s t : State, SlotsOk s → RefsOk s → step s = .next t → RefsOk t

/-- The part right after reset meets every invariant that the step keeps. That banks, table, meters, slots and held counts
of State.reset are in form before the sweep has written them rests on the model's choice of their contents (log entry 4). -/
def Obligations.ResetMeetsTheInvariants : Prop :=
  SlotsOk State.reset ∧ StationsOk State.reset ∧ HeldOk State.reset ∧ BanksOk State.reset ∧ RulesOk State.reset ∧
    MetersOk State.reset ∧ ArmOk State.reset ∧ PeriodTimersOk State.reset ∧ PortStatesOk State.reset ∧
    GateOk State.reset ∧ SyncTimerOk State.reset ∧ QueuesOk State.reset ∧ IdleIsEmpty State.reset ∧
    OutOfServiceOk State.reset ∧ AgentDepthsOk State.reset ∧ KeysOk State.reset ∧ AddressOk State.reset ∧
    SequencesOk State.reset ∧ RefsOk State.reset
end

