-- ==== Sys2Proof/Laws/Assoc.lean ====
section
/-! SUPPORT. Lists of numbered things: reading after writing and after removing, and that writing, removing and mapping
keep the numbers rising. -/

namespace Sys2Proof.Machine

variable {α : Type}

@[simp] theorem lookup_nil (k : Nat) : lookup k ([] : List (Nat × α)) = none := rfl

theorem lookup_cons (k j : Nat) (x : α) (l : List (Nat × α)) :
    lookup k ((j, x) :: l) = if j = k then some x else lookup k l := rfl

@[simp] theorem lookup_put_self (k : Nat) (x : α) (l : List (Nat × α)) : lookup k (put k x l) = some x := by
  induction l with
  | nil => simp [put, lookup]
  | cons e rest ih =>
    obtain ⟨j, y⟩ := e
    unfold put
    split
    · simp [lookup]
    · split
      · simp [lookup]
      · next h1 h2 =>
        have : j ≠ k := fun h => h2 h.symm
        simp [lookup, this, ih]

theorem lookup_put_other {k n : Nat} (h : n ≠ k) (x : α) (l : List (Nat × α)) :
    lookup n (put k x l) = lookup n l := by
  induction l with
  | nil => simp [put, lookup, h.symm]
  | cons e rest ih =>
    obtain ⟨j, y⟩ := e
    unfold put
    split
    · simp [lookup, h.symm]
    · split
      · next h1 h2 => subst h2; simp [lookup, h.symm]
      · simp [lookup, ih]

theorem lookup_put (k n : Nat) (x : α) (l : List (Nat × α)) :
    lookup n (put k x l) = if n = k then some x else lookup n l := by
  split
  · next h => subst h; simp
  · next h => exact lookup_put_other h x l

theorem lookup_remove_other {k n : Nat} (h : n ≠ k) (l : List (Nat × α)) :
    lookup n (remove k l) = lookup n l := by
  induction l with
  | nil => rfl
  | cons e rest ih =>
    obtain ⟨j, y⟩ := e
    unfold remove
    split
    · next hj => subst hj; simp [lookup, h.symm]
    · simp [lookup, ih]

/-- In rising form every number listed after the first is above it. -/
theorem rising_cons_lt {k : Nat} {x : α} {l : List (Nat × α)} (h : rising ((k, x) :: l) = true) :
    ∀ e ∈ l, k < e.1 := by
  induction l generalizing k x with
  | nil => simp
  | cons e rest ih =>
    obtain ⟨j, y⟩ := e
    simp only [rising, Bool.and_eq_true, decide_eq_true_eq] at h
    intro e he
    rcases List.mem_cons.mp he with rfl | he
    · exact h.1
    · exact Nat.lt_trans h.1 (ih h.2 e he)

theorem rising_tail {e : Nat × α} {l : List (Nat × α)} (h : rising (e :: l) = true) : rising l = true := by
  cases l with
  | nil => rfl
  | cons e2 rest =>
    obtain ⟨j, y⟩ := e2
    obtain ⟨k, x⟩ := e
    simp only [rising, Bool.and_eq_true] at h
    exact h.2

theorem rising_cons {k : Nat} {x : α} {l : List (Nat × α)} (h : rising l = true) (hl : ∀ e ∈ l, k < e.1) :
    rising ((k, x) :: l) = true := by
  cases l with
  | nil => rfl
  | cons e rest =>
    obtain ⟨j, y⟩ := e
    simp only [rising, Bool.and_eq_true, decide_eq_true_eq]
    exact ⟨hl (j, y) List.mem_cons_self, h⟩

theorem lookup_eq_none_of_lt {k : Nat} {l : List (Nat × α)} (h : ∀ e ∈ l, k < e.1) : lookup k l = none := by
  induction l with
  | nil => rfl
  | cons e rest ih =>
    obtain ⟨j, y⟩ := e
    have hj : k < j := h (j, y) List.mem_cons_self
    simp only [lookup]
    rw [if_neg (by omega)]
    exact ih (fun e he => h e (List.mem_cons_of_mem _ he))

/-- What was listed under a number is listed no more once it is removed. -/
theorem lookup_remove_self {k : Nat} {l : List (Nat × α)} (h : rising l = true) : lookup k (remove k l) = none := by
  induction l with
  | nil => rfl
  | cons e rest ih =>
    obtain ⟨j, y⟩ := e
    unfold remove
    split
    · next hj => subst hj; exact lookup_eq_none_of_lt (rising_cons_lt h)
    · next hj => simp [lookup, hj, ih (rising_tail h)]

theorem mem_put {k : Nat} {x : α} {l : List (Nat × α)} {e : Nat × α} (h : e ∈ put k x l) :
    e = (k, x) ∨ e ∈ l := by
  induction l with
  | nil => simpa [put] using h
  | cons f rest ih =>
    obtain ⟨j, y⟩ := f
    unfold put at h
    split at h
    · rcases List.mem_cons.mp h with h | h
      · exact .inl h
      · exact .inr h
    · split at h
      · rcases List.mem_cons.mp h with h | h
        · exact .inl h
        · exact .inr (List.mem_cons_of_mem _ h)
      · rcases List.mem_cons.mp h with h | h
        · exact .inr (h ▸ List.mem_cons_self)
        · rcases ih h with h | h
          · exact .inl h
          · exact .inr (List.mem_cons_of_mem _ h)

theorem mem_remove {k : Nat} {l : List (Nat × α)} {e : Nat × α} (h : e ∈ remove k l) : e ∈ l := by
  induction l with
  | nil => simp [remove] at h
  | cons f rest ih =>
    obtain ⟨j, y⟩ := f
    unfold remove at h
    split at h
    · exact List.mem_cons_of_mem _ h
    · rcases List.mem_cons.mp h with h | h
      · exact h ▸ List.mem_cons_self
      · exact List.mem_cons_of_mem _ (ih h)

/-- Writing keeps the numbers rising. -/
theorem rising_put {k : Nat} {x : α} {l : List (Nat × α)} (h : rising l = true) : rising (put k x l) = true := by
  induction l with
  | nil => rfl
  | cons e rest ih =>
    obtain ⟨j, y⟩ := e
    unfold put
    split
    · next hk =>
      refine rising_cons h (fun e he => ?_)
      rcases List.mem_cons.mp he with rfl | he
      · exact hk
      · exact Nat.lt_trans hk (rising_cons_lt h e he)
    · split
      · next h1 h2 =>
        subst h2
        exact rising_cons (rising_tail h) (rising_cons_lt h)
      · next h1 h2 =>
        refine rising_cons (ih (rising_tail h)) (fun e he => ?_)
        rcases mem_put he with rfl | he
        · show j < k
          omega
        · exact rising_cons_lt h e he

/-- Removing keeps the numbers rising. -/
theorem rising_remove {k : Nat} {l : List (Nat × α)} (h : rising l = true) : rising (remove k l) = true := by
  induction l with
  | nil => rfl
  | cons e rest ih =>
    obtain ⟨j, y⟩ := e
    unfold remove
    split
    · exact rising_tail h
    · exact rising_cons (ih (rising_tail h)) (fun e he => rising_cons_lt h e (mem_remove he))

/-- Keeping some of the entries keeps the numbers rising. -/
theorem rising_sublist {l m : List (Nat × α)} (hs : List.Sublist m l) (h : rising l = true) : rising m = true := by
  induction hs with
  | slnil => rfl
  | cons a _ ih => exact ih (rising_tail h)
  | cons_cons a hs ih =>
    obtain ⟨k, x⟩ := a
    exact rising_cons (ih (rising_tail h)) (fun e he => rising_cons_lt h e (hs.subset he))

theorem rising_filter {l : List (Nat × α)} (f : Nat × α → Bool) (h : rising l = true) :
    rising (l.filter f) = true := rising_sublist List.filter_sublist h

theorem rising_mapValues {l : List (Nat × α)} (f : α → α) (h : rising l = true) : rising (mapValues f l) = true := by
  induction l with
  | nil => rfl
  | cons e rest ih =>
    obtain ⟨k, x⟩ := e
    show rising ((k, f x) :: mapValues f rest) = true
    refine rising_cons (ih (rising_tail h)) (fun e he => ?_)
    obtain ⟨e', he', rfl⟩ := List.mem_map.mp he
    exact rising_cons_lt h e' he'

/-- Changing or dropping entries, but no number, keeps the numbers rising. -/
theorem rising_filterMap {l : List (Nat × α)} (f : Nat × α → Option (Nat × α))
    (hf : ∀ e e', f e = some e' → e'.1 = e.1) (h : rising l = true) : rising (l.filterMap f) = true := by
  induction l with
  | nil => rfl
  | cons e rest ih =>
    cases hfe : f e with
    | none => rw [List.filterMap_cons_none hfe]; exact ih (rising_tail h)
    | some e' =>
      rw [List.filterMap_cons_some hfe]
      obtain ⟨k, x⟩ := e'
      have hk : k = e.1 := hf e (k, x) hfe
      refine rising_cons (ih (rising_tail h)) (fun e2 he2 => ?_)
      obtain ⟨a, ha, hfa⟩ := List.mem_filterMap.mp he2
      rw [hf a e2 hfa, hk]
      exact rising_cons_lt (x := e.2) h a ha

theorem length_put_some {k : Nat} {x y : α} {l : List (Nat × α)} (h : lookup k l = some y) (hr : rising l = true) :
    (put k x l).length = l.length := by
  induction l with
  | nil => simp at h
  | cons e rest ih =>
    obtain ⟨j, z⟩ := e
    unfold put
    split
    · next hk =>
      exfalso
      have hnone : lookup k ((j, z) :: rest) = none := by
        apply lookup_eq_none_of_lt
        intro e he
        rcases List.mem_cons.mp he with rfl | he
        · exact hk
        · exact Nat.lt_trans hk (rising_cons_lt hr e he)
      rw [hnone] at h
      cases h
    · split
      · simp
      · next h1 h2 =>
        have hj : j ≠ k := fun hh => h2 hh.symm
        simp only [lookup, hj, if_false] at h
        simp [ih h (rising_tail hr)]

theorem length_put_le {k : Nat} {x : α} {l : List (Nat × α)} : (put k x l).length ≤ l.length + 1 := by
  induction l with
  | nil => simp [put]
  | cons e rest ih =>
    obtain ⟨j, z⟩ := e
    unfold put
    split
    · simp
    · split
      · simp
      · simp only [List.length_cons]; omega

theorem length_remove_le {k : Nat} {l : List (Nat × α)} : (remove k l).length ≤ l.length := by
  induction l with
  | nil => simp [remove]
  | cons e rest ih =>
    obtain ⟨j, z⟩ := e
    unfold remove
    split
    · simp
    · simp only [List.length_cons]; omega

/-- The lowest free number lists nothing, lies in the range searched, and has no free number below it there. -/
theorem lowestFree_spec {fuel k n : Nat} {l : List (Nat × α)} (h : lowestFree fuel k l = some n) :
    k ≤ n ∧ n < k + fuel ∧ lookup n l = none ∧ ∀ m, k ≤ m → m < n → lookup m l ≠ none := by
  induction fuel generalizing k with
  | zero => simp [lowestFree] at h
  | succ fuel ih =>
    unfold lowestFree at h
    split at h
    · next hl =>
      cases h
      exact ⟨Nat.le_refl _, by omega, hl, fun m h1 h2 => absurd h1 (by omega)⟩
    · next x hl =>
      obtain ⟨h1, h2, h3, h4⟩ := ih h
      refine ⟨by omega, by omega, h3, fun m hm hmn => ?_⟩
      by_cases hk : m = k
      · subst hk; rw [hl]; exact fun h => nomatch h
      · exact h4 m (by omega) hmn

/-- The second of two writes under one number stands. -/
theorem put_put (k : Nat) (x y : α) (l : List (Nat × α)) : put k x (put k y l) = put k x l := by
  induction l with
  | nil => simp [put]
  | cons e rest ih =>
    obtain ⟨j, z⟩ := e
    by_cases h1 : k < j
    · simp [put, h1]
    · by_cases h2 : k = j
      · subst h2; simp [put]
      · simp [put, h1, h2, ih]

theorem lookup_mapValues (f : α → α) (k : Nat) (l : List (Nat × α)) :
    lookup k (mapValues f l) = (lookup k l).map f := by
  induction l with
  | nil => rfl
  | cons e rest ih =>
    obtain ⟨j, x⟩ := e
    show (if j = k then some (f x) else lookup k (mapValues f rest)) = (lookup k ((j, x) :: rest)).map f
    rw [lookup_cons]
    split
    · rfl
    · exact ih

theorem lookup_mem {k : Nat} {x : α} {l : List (Nat × α)} (h : lookup k l = some x) : (k, x) ∈ l := by
  induction l with
  | nil => simp at h
  | cons e rest ih =>
    obtain ⟨j, y⟩ := e
    rw [lookup_cons] at h
    split at h
    · next hj =>
      subst hj
      cases h
      exact List.mem_cons_self
    · exact List.mem_cons_of_mem _ (ih h)

/-- Listing something new raises a count by one where it is counted. -/
theorem countP_put_new {k : Nat} {l : List (Nat × α)} (h : lookup k l = none) (x : α) (f : Nat × α → Bool) :
    (put k x l).countP f = l.countP f + (if f (k, x) then 1 else 0) := by
  induction l with
  | nil => simp [put]
  | cons e rest ih =>
    obtain ⟨j, y⟩ := e
    unfold put
    split
    · rw [List.countP_cons]
    · split
      · next h1 h2 => subst h2; simp [lookup] at h
      · next h1 h2 =>
        have hj : j ≠ k := fun hh => h2 hh.symm
        rw [lookup_cons, if_neg hj] at h
        rw [List.countP_cons, List.countP_cons, ih h]
        omega

/-- Writing over what was listed leaves a count that counts both alike. -/
theorem countP_put_same {k : Nat} {y : α} {l : List (Nat × α)} (hr : rising l = true) (h : lookup k l = some y) {x : α}
    {f : Nat × α → Bool} (hf : f (k, x) = f (k, y)) : (put k x l).countP f = l.countP f := by
  induction l with
  | nil => simp at h
  | cons e rest ih =>
    obtain ⟨j, z⟩ := e
    unfold put
    split
    · next hk =>
      exfalso
      have hnone : lookup k ((j, z) :: rest) = none := by
        apply lookup_eq_none_of_lt
        intro e he
        rcases List.mem_cons.mp he with rfl | he
        · exact hk
        · exact Nat.lt_trans hk (rising_cons_lt hr e he)
      rw [hnone] at h
      cases h
    · split
      · next h1 h2 =>
        subst h2
        simp only [lookup_cons, if_true, Option.some.injEq] at h
        subst h
        rw [List.countP_cons, List.countP_cons, hf]
      · next h1 h2 =>
        have hj : j ≠ k := fun hh => h2 hh.symm
        rw [lookup_cons, if_neg hj] at h
        rw [List.countP_cons, List.countP_cons, ih (rising_tail hr) h]

/-- Removing lowers a count by one where what was removed was counted. -/
theorem countP_remove {k : Nat} {y : α} {l : List (Nat × α)} (h : lookup k l = some y) (f : Nat × α → Bool) :
    (remove k l).countP f + (if f (k, y) then 1 else 0) = l.countP f := by
  induction l with
  | nil => simp at h
  | cons e rest ih =>
    obtain ⟨j, z⟩ := e
    unfold remove
    rw [lookup_cons] at h
    split
    · next hj =>
      rw [if_pos hj] at h
      cases h
      subst hj
      rw [List.countP_cons]
    · next hj =>
      rw [if_neg hj] at h
      rw [List.countP_cons, List.countP_cons, ← ih h]
      omega

end Sys2Proof.Machine
end

