-- ==== Sys2Proof/Laws/State.lean ====
section
/-! SUPPORT. The small lemmas of State's accessors and updates, one per field and update, so that no proof unfolds a
record update: what an update writes is read back, and every other field is as it was. -/

namespace Sys2Proof.Machine

variable {α : Type}

@[simp] theorem PerPort.get_set_self (x : PerPort α) (p : Port) (v : α) : (x.set p v).get p = v := by
  cases p <;> rfl

theorem PerPort.get_set_other (x : PerPort α) {p q : Port} (h : q ≠ p) (v : α) : (x.set p v).get q = x.get q := by
  cases p <;> cases q <;> first | rfl | exact absurd rfl h

theorem PerPort.get_set (x : PerPort α) (p q : Port) (v : α) :
    (x.set p v).get q = if q = p then v else x.get q := by
  split
  · next h => subst h; simp
  · next h => exact x.get_set_other h v

@[simp] theorem PerPort.get_map (x : PerPort α) (f : α → α) (p : Port) : (x.map f).get p = f (x.get p) := by
  cases p <;> rfl

@[simp] theorem PerPort.set_set (x : PerPort α) (p : Port) (v w : α) : (x.set p v).set p w = x.set p w := by
  cases p <;> rfl

@[simp] theorem PerPort.set_get (x : PerPort α) (p : Port) : x.set p (x.get p) = x := by
  cases p <;> rfl

@[simp] theorem PerSource.get_set_self (x : PerSource α) (r : Source) (v : α) : (x.set r v).get r = v := by
  cases r <;> rfl

theorem PerSource.get_set_other (x : PerSource α) {r q : Source} (h : q ≠ r) (v : α) :
    (x.set r v).get q = x.get q := by
  cases r <;> cases q <;> first | rfl | exact absurd rfl h

@[simp] theorem PerSource.get_map (x : PerSource α) (f : α → α) (r : Source) : (x.map f).get r = f (x.get r) := by
  cases r <;> rfl

@[simp] theorem Counters.get_bump_self (k : Counters) (c : Counter) : (k.bump c).get c = k.get c + 1 := by
  cases c <;> rfl

theorem Counters.get_bump_other (k : Counters) {c d : Counter} (h : d ≠ c) : (k.bump c).get d = k.get d := by
  cases c <;> cases d <;> first | rfl | exact absurd rfl h

@[simp] theorem Egress.queue_setQueue_self (e : Egress) (c : BitVec 2) (q : List Nat) :
    (e.setQueue c q).queue c = q := by
  unfold Egress.setQueue Egress.queue
  repeat' split
  all_goals rfl

@[simp] theorem RuleList.bank_setBank_self (r : RuleList) (n : BankName) (k : Bank) : (r.setBank n k).bank n = k := by
  cases n <;> rfl

@[simp] theorem RuleList.bank_setBank_other (r : RuleList) (n : BankName) (k : Bank) :
    (r.setBank n k).bank (otherBank n) = r.bank (otherBank n) := by
  cases n <;> rfl

/-! ### setPort -/

@[simp] theorem State.setPort_rules (s : State) (p : Port) (u : PortUnit) : (s.setPort p u).rules = s.rules := rfl
@[simp] theorem State.setPort_stations (s : State) (p : Port) (u : PortUnit) : (s.setPort p u).stations = s.stations := rfl
@[simp] theorem State.setPort_meters (s : State) (p : Port) (u : PortUnit) : (s.setPort p u).meters = s.meters := rfl
@[simp] theorem State.setPort_store (s : State) (p : Port) (u : PortUnit) : (s.setPort p u).store = s.store := rfl
@[simp] theorem State.setPort_sync (s : State) (p : Port) (u : PortUnit) : (s.setPort p u).sync = s.sync := rfl
@[simp] theorem State.setPort_agent (s : State) (p : Port) (u : PortUnit) : (s.setPort p u).agent = s.agent := rfl
@[simp] theorem State.setPort_notices (s : State) (p : Port) (u : PortUnit) : (s.setPort p u).notices = s.notices := rfl
@[simp] theorem State.setPort_device (s : State) (p : Port) (u : PortUnit) : (s.setPort p u).device = s.device := rfl
@[simp] theorem State.setPort_choices (s : State) (p : Port) (u : PortUnit) : (s.setPort p u).choices = s.choices := rfl
@[simp] theorem State.setPort_pending (s : State) (p : Port) (u : PortUnit) : (s.setPort p u).pending = s.pending := rfl

/-! ### setEgress -/

@[simp] theorem State.setEgress_rules (s : State) (p : Port) (e : Egress) : (s.setEgress p e).rules = s.rules := rfl
@[simp] theorem State.setEgress_stations (s : State) (p : Port) (e : Egress) : (s.setEgress p e).stations = s.stations := rfl
@[simp] theorem State.setEgress_meters (s : State) (p : Port) (e : Egress) : (s.setEgress p e).meters = s.meters := rfl
@[simp] theorem State.setEgress_store (s : State) (p : Port) (e : Egress) : (s.setEgress p e).store = s.store := rfl
@[simp] theorem State.setEgress_sync (s : State) (p : Port) (e : Egress) : (s.setEgress p e).sync = s.sync := rfl
@[simp] theorem State.setEgress_agent (s : State) (p : Port) (e : Egress) : (s.setEgress p e).agent = s.agent := rfl
@[simp] theorem State.setEgress_notices (s : State) (p : Port) (e : Egress) : (s.setEgress p e).notices = s.notices := rfl
@[simp] theorem State.setEgress_device (s : State) (p : Port) (e : Egress) : (s.setEgress p e).device = s.device := rfl
@[simp] theorem State.setEgress_choices (s : State) (p : Port) (e : Egress) : (s.setEgress p e).choices = s.choices := rfl
@[simp] theorem State.setEgress_pending (s : State) (p : Port) (e : Egress) : (s.setEgress p e).pending = s.pending := rfl

/-! ### count -/

@[simp] theorem State.count_rules (s : State) (p : Port) (c : Counter) : (s.count p c).rules = s.rules := rfl
@[simp] theorem State.count_stations (s : State) (p : Port) (c : Counter) : (s.count p c).stations = s.stations := rfl
@[simp] theorem State.count_meters (s : State) (p : Port) (c : Counter) : (s.count p c).meters = s.meters := rfl
@[simp] theorem State.count_store (s : State) (p : Port) (c : Counter) : (s.count p c).store = s.store := rfl
@[simp] theorem State.count_sync (s : State) (p : Port) (c : Counter) : (s.count p c).sync = s.sync := rfl
@[simp] theorem State.count_agent (s : State) (p : Port) (c : Counter) : (s.count p c).agent = s.agent := rfl
@[simp] theorem State.count_notices (s : State) (p : Port) (c : Counter) : (s.count p c).notices = s.notices := rfl
@[simp] theorem State.count_device (s : State) (p : Port) (c : Counter) : (s.count p c).device = s.device := rfl
@[simp] theorem State.count_choices (s : State) (p : Port) (c : Counter) : (s.count p c).choices = s.choices := rfl
@[simp] theorem State.count_pending (s : State) (p : Port) (c : Counter) : (s.count p c).pending = s.pending := rfl

/-! ### setReceiver -/

@[simp] theorem State.setReceiver_rules (s : State) (p : Port) (x : Receiver) : (s.setReceiver p x).rules = s.rules := rfl
@[simp] theorem State.setReceiver_stations (s : State) (p : Port) (x : Receiver) : (s.setReceiver p x).stations = s.stations := rfl
@[simp] theorem State.setReceiver_meters (s : State) (p : Port) (x : Receiver) : (s.setReceiver p x).meters = s.meters := rfl
@[simp] theorem State.setReceiver_store (s : State) (p : Port) (x : Receiver) : (s.setReceiver p x).store = s.store := rfl
@[simp] theorem State.setReceiver_sync (s : State) (p : Port) (x : Receiver) : (s.setReceiver p x).sync = s.sync := rfl
@[simp] theorem State.setReceiver_agent (s : State) (p : Port) (x : Receiver) : (s.setReceiver p x).agent = s.agent := rfl
@[simp] theorem State.setReceiver_notices (s : State) (p : Port) (x : Receiver) : (s.setReceiver p x).notices = s.notices := rfl
@[simp] theorem State.setReceiver_device (s : State) (p : Port) (x : Receiver) : (s.setReceiver p x).device = s.device := rfl
@[simp] theorem State.setReceiver_choices (s : State) (p : Port) (x : Receiver) : (s.setReceiver p x).choices = s.choices := rfl
@[simp] theorem State.setReceiver_pending (s : State) (p : Port) (x : Receiver) : (s.setReceiver p x).pending = s.pending := rfl

/-! ### setSlots -/

@[simp] theorem State.setSlots_rules (s : State) (l : List (Nat × Slot)) : (s.setSlots l).rules = s.rules := rfl
@[simp] theorem State.setSlots_stations (s : State) (l : List (Nat × Slot)) : (s.setSlots l).stations = s.stations := rfl
@[simp] theorem State.setSlots_meters (s : State) (l : List (Nat × Slot)) : (s.setSlots l).meters = s.meters := rfl
@[simp] theorem State.setSlots_ports (s : State) (l : List (Nat × Slot)) : (s.setSlots l).ports = s.ports := rfl
@[simp] theorem State.setSlots_sync (s : State) (l : List (Nat × Slot)) : (s.setSlots l).sync = s.sync := rfl
@[simp] theorem State.setSlots_agent (s : State) (l : List (Nat × Slot)) : (s.setSlots l).agent = s.agent := rfl
@[simp] theorem State.setSlots_notices (s : State) (l : List (Nat × Slot)) : (s.setSlots l).notices = s.notices := rfl
@[simp] theorem State.setSlots_device (s : State) (l : List (Nat × Slot)) : (s.setSlots l).device = s.device := rfl
@[simp] theorem State.setSlots_choices (s : State) (l : List (Nat × Slot)) : (s.setSlots l).choices = s.choices := rfl
@[simp] theorem State.setSlots_pending (s : State) (l : List (Nat × Slot)) : (s.setSlots l).pending = s.pending := rfl

/-! ### fillSlot -/

@[simp] theorem State.fillSlot_rules (s : State) (n : Nat) (f : Frame) (o : Origin) (k : Nat) : (s.fillSlot n f o k).rules = s.rules := rfl
@[simp] theorem State.fillSlot_stations (s : State) (n : Nat) (f : Frame) (o : Origin) (k : Nat) : (s.fillSlot n f o k).stations = s.stations := rfl
@[simp] theorem State.fillSlot_meters (s : State) (n : Nat) (f : Frame) (o : Origin) (k : Nat) : (s.fillSlot n f o k).meters = s.meters := rfl
@[simp] theorem State.fillSlot_ports (s : State) (n : Nat) (f : Frame) (o : Origin) (k : Nat) : (s.fillSlot n f o k).ports = s.ports := rfl
@[simp] theorem State.fillSlot_sync (s : State) (n : Nat) (f : Frame) (o : Origin) (k : Nat) : (s.fillSlot n f o k).sync = s.sync := rfl
@[simp] theorem State.fillSlot_agent (s : State) (n : Nat) (f : Frame) (o : Origin) (k : Nat) : (s.fillSlot n f o k).agent = s.agent := rfl
@[simp] theorem State.fillSlot_notices (s : State) (n : Nat) (f : Frame) (o : Origin) (k : Nat) : (s.fillSlot n f o k).notices = s.notices := rfl
@[simp] theorem State.fillSlot_device (s : State) (n : Nat) (f : Frame) (o : Origin) (k : Nat) : (s.fillSlot n f o k).device = s.device := rfl
@[simp] theorem State.fillSlot_choices (s : State) (n : Nat) (f : Frame) (o : Origin) (k : Nat) : (s.fillSlot n f o k).choices = s.choices := rfl
@[simp] theorem State.fillSlot_pending (s : State) (n : Nat) (f : Frame) (o : Origin) (k : Nat) : (s.fillSlot n f o k).pending = s.pending := rfl

/-! ### setAwaiting -/

@[simp] theorem State.setAwaiting_rules (s : State) (p : Port) (l : List Nat) : (s.setAwaiting p l).rules = s.rules := rfl
@[simp] theorem State.setAwaiting_stations (s : State) (p : Port) (l : List Nat) : (s.setAwaiting p l).stations = s.stations := rfl
@[simp] theorem State.setAwaiting_meters (s : State) (p : Port) (l : List Nat) : (s.setAwaiting p l).meters = s.meters := rfl
@[simp] theorem State.setAwaiting_ports (s : State) (p : Port) (l : List Nat) : (s.setAwaiting p l).ports = s.ports := rfl
@[simp] theorem State.setAwaiting_sync (s : State) (p : Port) (l : List Nat) : (s.setAwaiting p l).sync = s.sync := rfl
@[simp] theorem State.setAwaiting_agent (s : State) (p : Port) (l : List Nat) : (s.setAwaiting p l).agent = s.agent := rfl
@[simp] theorem State.setAwaiting_notices (s : State) (p : Port) (l : List Nat) : (s.setAwaiting p l).notices = s.notices := rfl
@[simp] theorem State.setAwaiting_device (s : State) (p : Port) (l : List Nat) : (s.setAwaiting p l).device = s.device := rfl
@[simp] theorem State.setAwaiting_choices (s : State) (p : Port) (l : List Nat) : (s.setAwaiting p l).choices = s.choices := rfl
@[simp] theorem State.setAwaiting_pending (s : State) (p : Port) (l : List Nat) : (s.setAwaiting p l).pending = s.pending := rfl

/-! ### setSource -/

@[simp] theorem State.setSource_rules (s : State) (r : Source) (x : NoticeSource) : (s.setSource r x).rules = s.rules := rfl
@[simp] theorem State.setSource_stations (s : State) (r : Source) (x : NoticeSource) : (s.setSource r x).stations = s.stations := rfl
@[simp] theorem State.setSource_meters (s : State) (r : Source) (x : NoticeSource) : (s.setSource r x).meters = s.meters := rfl
@[simp] theorem State.setSource_store (s : State) (r : Source) (x : NoticeSource) : (s.setSource r x).store = s.store := rfl
@[simp] theorem State.setSource_ports (s : State) (r : Source) (x : NoticeSource) : (s.setSource r x).ports = s.ports := rfl
@[simp] theorem State.setSource_sync (s : State) (r : Source) (x : NoticeSource) : (s.setSource r x).sync = s.sync := rfl
@[simp] theorem State.setSource_agent (s : State) (r : Source) (x : NoticeSource) : (s.setSource r x).agent = s.agent := rfl
@[simp] theorem State.setSource_device (s : State) (r : Source) (x : NoticeSource) : (s.setSource r x).device = s.device := rfl
@[simp] theorem State.setSource_choices (s : State) (r : Source) (x : NoticeSource) : (s.setSource r x).choices = s.choices := rfl
@[simp] theorem State.setSource_pending (s : State) (r : Source) (x : NoticeSource) : (s.setSource r x).pending = s.pending := rfl

/-! ### raise -/

@[simp] theorem State.raise_rules (s : State) (r : Source) (d : Word) : (s.raise r d).rules = s.rules := rfl
@[simp] theorem State.raise_stations (s : State) (r : Source) (d : Word) : (s.raise r d).stations = s.stations := rfl
@[simp] theorem State.raise_meters (s : State) (r : Source) (d : Word) : (s.raise r d).meters = s.meters := rfl
@[simp] theorem State.raise_store (s : State) (r : Source) (d : Word) : (s.raise r d).store = s.store := rfl
@[simp] theorem State.raise_ports (s : State) (r : Source) (d : Word) : (s.raise r d).ports = s.ports := rfl
@[simp] theorem State.raise_sync (s : State) (r : Source) (d : Word) : (s.raise r d).sync = s.sync := rfl
@[simp] theorem State.raise_agent (s : State) (r : Source) (d : Word) : (s.raise r d).agent = s.agent := rfl
@[simp] theorem State.raise_device (s : State) (r : Source) (d : Word) : (s.raise r d).device = s.device := rfl
@[simp] theorem State.raise_choices (s : State) (r : Source) (d : Word) : (s.raise r d).choices = s.choices := rfl
@[simp] theorem State.raise_pending (s : State) (r : Source) (d : Word) : (s.raise r d).pending = s.pending := rfl

/-! ### causeService -/

@[simp] theorem State.causeService_rules (s : State) : s.causeService.rules = s.rules := rfl
@[simp] theorem State.causeService_stations (s : State) : s.causeService.stations = s.stations := rfl
@[simp] theorem State.causeService_meters (s : State) : s.causeService.meters = s.meters := rfl
@[simp] theorem State.causeService_store (s : State) : s.causeService.store = s.store := rfl
@[simp] theorem State.causeService_ports (s : State) : s.causeService.ports = s.ports := rfl
@[simp] theorem State.causeService_sync (s : State) : s.causeService.sync = s.sync := rfl
@[simp] theorem State.causeService_agent (s : State) : s.causeService.agent = s.agent := rfl
@[simp] theorem State.causeService_device (s : State) : s.causeService.device = s.device := rfl
@[simp] theorem State.causeService_choices (s : State) : s.causeService.choices = s.choices := rfl
@[simp] theorem State.causeService_pending (s : State) : s.causeService.pending = s.pending := rfl

/-! ### setMeter -/

@[simp] theorem State.setMeter_rules (s : State) (n : Nat) (m : Meter) : (s.setMeter n m).rules = s.rules := rfl
@[simp] theorem State.setMeter_stations (s : State) (n : Nat) (m : Meter) : (s.setMeter n m).stations = s.stations := rfl
@[simp] theorem State.setMeter_store (s : State) (n : Nat) (m : Meter) : (s.setMeter n m).store = s.store := rfl
@[simp] theorem State.setMeter_ports (s : State) (n : Nat) (m : Meter) : (s.setMeter n m).ports = s.ports := rfl
@[simp] theorem State.setMeter_sync (s : State) (n : Nat) (m : Meter) : (s.setMeter n m).sync = s.sync := rfl
@[simp] theorem State.setMeter_agent (s : State) (n : Nat) (m : Meter) : (s.setMeter n m).agent = s.agent := rfl
@[simp] theorem State.setMeter_notices (s : State) (n : Nat) (m : Meter) : (s.setMeter n m).notices = s.notices := rfl
@[simp] theorem State.setMeter_device (s : State) (n : Nat) (m : Meter) : (s.setMeter n m).device = s.device := rfl
@[simp] theorem State.setMeter_choices (s : State) (n : Nat) (m : Meter) : (s.setMeter n m).choices = s.choices := rfl
@[simp] theorem State.setMeter_pending (s : State) (n : Nat) (m : Meter) : (s.setMeter n m).pending = s.pending := rfl

/-! ### serveTriggers -/

@[simp] theorem State.serveTriggers_rules (s : State) : s.serveTriggers.rules = s.rules := rfl
@[simp] theorem State.serveTriggers_stations (s : State) : s.serveTriggers.stations = s.stations := rfl
@[simp] theorem State.serveTriggers_store (s : State) : s.serveTriggers.store = s.store := rfl
@[simp] theorem State.serveTriggers_ports (s : State) : s.serveTriggers.ports = s.ports := rfl
@[simp] theorem State.serveTriggers_sync (s : State) : s.serveTriggers.sync = s.sync := rfl
@[simp] theorem State.serveTriggers_agent (s : State) : s.serveTriggers.agent = s.agent := rfl
@[simp] theorem State.serveTriggers_notices (s : State) : s.serveTriggers.notices = s.notices := rfl
@[simp] theorem State.serveTriggers_device (s : State) : s.serveTriggers.device = s.device := rfl
@[simp] theorem State.serveTriggers_choices (s : State) : s.serveTriggers.choices = s.choices := rfl
@[simp] theorem State.serveTriggers_pending (s : State) : s.serveTriggers.pending = s.pending := rfl

/-! ### setEntries -/

@[simp] theorem State.setEntries_rules (s : State) (l : List (Nat × StationEntry)) : (s.setEntries l).rules = s.rules := rfl
@[simp] theorem State.setEntries_meters (s : State) (l : List (Nat × StationEntry)) : (s.setEntries l).meters = s.meters := rfl
@[simp] theorem State.setEntries_store (s : State) (l : List (Nat × StationEntry)) : (s.setEntries l).store = s.store := rfl
@[simp] theorem State.setEntries_ports (s : State) (l : List (Nat × StationEntry)) : (s.setEntries l).ports = s.ports := rfl
@[simp] theorem State.setEntries_sync (s : State) (l : List (Nat × StationEntry)) : (s.setEntries l).sync = s.sync := rfl
@[simp] theorem State.setEntries_agent (s : State) (l : List (Nat × StationEntry)) : (s.setEntries l).agent = s.agent := rfl
@[simp] theorem State.setEntries_notices (s : State) (l : List (Nat × StationEntry)) : (s.setEntries l).notices = s.notices := rfl
@[simp] theorem State.setEntries_device (s : State) (l : List (Nat × StationEntry)) : (s.setEntries l).device = s.device := rfl
@[simp] theorem State.setEntries_choices (s : State) (l : List (Nat × StationEntry)) : (s.setEntries l).choices = s.choices := rfl
@[simp] theorem State.setEntries_pending (s : State) (l : List (Nat × StationEntry)) : (s.setEntries l).pending = s.pending := rfl

/-! ### writeLearned -/

@[simp] theorem State.writeLearned_rules (s : State) (a : Word) (p : Port) : (s.writeLearned a p).rules = s.rules := rfl
@[simp] theorem State.writeLearned_meters (s : State) (a : Word) (p : Port) : (s.writeLearned a p).meters = s.meters := rfl
@[simp] theorem State.writeLearned_store (s : State) (a : Word) (p : Port) : (s.writeLearned a p).store = s.store := rfl
@[simp] theorem State.writeLearned_ports (s : State) (a : Word) (p : Port) : (s.writeLearned a p).ports = s.ports := rfl
@[simp] theorem State.writeLearned_sync (s : State) (a : Word) (p : Port) : (s.writeLearned a p).sync = s.sync := rfl
@[simp] theorem State.writeLearned_agent (s : State) (a : Word) (p : Port) : (s.writeLearned a p).agent = s.agent := rfl
@[simp] theorem State.writeLearned_notices (s : State) (a : Word) (p : Port) : (s.writeLearned a p).notices = s.notices := rfl
@[simp] theorem State.writeLearned_device (s : State) (a : Word) (p : Port) : (s.writeLearned a p).device = s.device := rfl
@[simp] theorem State.writeLearned_choices (s : State) (a : Word) (p : Port) : (s.writeLearned a p).choices = s.choices := rfl
@[simp] theorem State.writeLearned_pending (s : State) (a : Word) (p : Port) : (s.writeLearned a p).pending = s.pending := rfl

/-! ### setStandby -/

@[simp] theorem State.setStandby_stations (s : State) (k : Bank) : (s.setStandby k).stations = s.stations := rfl
@[simp] theorem State.setStandby_meters (s : State) (k : Bank) : (s.setStandby k).meters = s.meters := rfl
@[simp] theorem State.setStandby_store (s : State) (k : Bank) : (s.setStandby k).store = s.store := rfl
@[simp] theorem State.setStandby_ports (s : State) (k : Bank) : (s.setStandby k).ports = s.ports := rfl
@[simp] theorem State.setStandby_sync (s : State) (k : Bank) : (s.setStandby k).sync = s.sync := rfl
@[simp] theorem State.setStandby_agent (s : State) (k : Bank) : (s.setStandby k).agent = s.agent := rfl
@[simp] theorem State.setStandby_notices (s : State) (k : Bank) : (s.setStandby k).notices = s.notices := rfl
@[simp] theorem State.setStandby_device (s : State) (k : Bank) : (s.setStandby k).device = s.device := rfl
@[simp] theorem State.setStandby_choices (s : State) (k : Bank) : (s.setStandby k).choices = s.choices := rfl
@[simp] theorem State.setStandby_pending (s : State) (k : Bank) : (s.setStandby k).pending = s.pending := rfl

/-! ### setClaim -/

@[simp] theorem State.setClaim_rules (s : State) (c : Option Claim) : (s.setClaim c).rules = s.rules := rfl
@[simp] theorem State.setClaim_stations (s : State) (c : Option Claim) : (s.setClaim c).stations = s.stations := rfl
@[simp] theorem State.setClaim_meters (s : State) (c : Option Claim) : (s.setClaim c).meters = s.meters := rfl
@[simp] theorem State.setClaim_store (s : State) (c : Option Claim) : (s.setClaim c).store = s.store := rfl
@[simp] theorem State.setClaim_ports (s : State) (c : Option Claim) : (s.setClaim c).ports = s.ports := rfl
@[simp] theorem State.setClaim_sync (s : State) (c : Option Claim) : (s.setClaim c).sync = s.sync := rfl
@[simp] theorem State.setClaim_notices (s : State) (c : Option Claim) : (s.setClaim c).notices = s.notices := rfl
@[simp] theorem State.setClaim_device (s : State) (c : Option Claim) : (s.setClaim c).device = s.device := rfl
@[simp] theorem State.setClaim_choices (s : State) (c : Option Claim) : (s.setClaim c).choices = s.choices := rfl
@[simp] theorem State.setClaim_pending (s : State) (c : Option Claim) : (s.setClaim c).pending = s.pending := rfl

/-! ### countStartupDiscard -/

@[simp] theorem State.countStartupDiscard_rules (s : State) : s.countStartupDiscard.rules = s.rules := rfl
@[simp] theorem State.countStartupDiscard_stations (s : State) : s.countStartupDiscard.stations = s.stations := rfl
@[simp] theorem State.countStartupDiscard_meters (s : State) : s.countStartupDiscard.meters = s.meters := rfl
@[simp] theorem State.countStartupDiscard_store (s : State) : s.countStartupDiscard.store = s.store := rfl
@[simp] theorem State.countStartupDiscard_ports (s : State) : s.countStartupDiscard.ports = s.ports := rfl
@[simp] theorem State.countStartupDiscard_sync (s : State) : s.countStartupDiscard.sync = s.sync := rfl
@[simp] theorem State.countStartupDiscard_notices (s : State) : s.countStartupDiscard.notices = s.notices := rfl
@[simp] theorem State.countStartupDiscard_device (s : State) : s.countStartupDiscard.device = s.device := rfl
@[simp] theorem State.countStartupDiscard_choices (s : State) : s.countStartupDiscard.choices = s.choices := rfl
@[simp] theorem State.countStartupDiscard_pending (s : State) : s.countStartupDiscard.pending = s.pending := rfl

/-! ### What is read back -/

@[simp] theorem State.port_setPort_self (s : State) (p : Port) (u : PortUnit) : (s.setPort p u).port p = u := by
  simp [State.setPort, State.port]

theorem State.port_setPort_other (s : State) {p q : Port} (h : q ≠ p) (u : PortUnit) :
    (s.setPort p u).port q = s.port q := by
  simp [State.setPort, State.port, PerPort.get_set_other _ h]

@[simp] theorem State.port_setEgress_self (s : State) (p : Port) (e : Egress) :
    (s.setEgress p e).port p = { s.port p with egress := e } := by
  simp [State.setEgress]

theorem State.port_setEgress_other (s : State) {p q : Port} (h : q ≠ p) (e : Egress) :
    (s.setEgress p e).port q = s.port q := s.port_setPort_other h _

@[simp] theorem State.port_count_self (s : State) (p : Port) (c : Counter) :
    (s.count p c).port p = { s.port p with counters := (s.port p).counters.bump c } := by
  simp [State.count]

theorem State.port_count_other (s : State) {p q : Port} (h : q ≠ p) (c : Counter) :
    (s.count p c).port q = s.port q := s.port_setPort_other h _

@[simp] theorem State.slot_setSlots (s : State) (l : List (Nat × Slot)) (n : Nat) :
    (s.setSlots l).slot n = lookup n l := rfl

@[simp] theorem State.slot_setPort (s : State) (p : Port) (u : PortUnit) (n : Nat) : (s.setPort p u).slot n = s.slot n :=
  rfl

@[simp] theorem State.slot_setEgress (s : State) (p : Port) (e : Egress) (n : Nat) :
    (s.setEgress p e).slot n = s.slot n := rfl

@[simp] theorem State.slot_count (s : State) (p : Port) (c : Counter) (n : Nat) : (s.count p c).slot n = s.slot n := rfl

@[simp] theorem State.clock_setSlots (s : State) (l : List (Nat × Slot)) : (s.setSlots l).store.clock = s.store.clock :=
  rfl

@[simp] theorem State.awaiting_setSlots (s : State) (l : List (Nat × Slot)) :
    (s.setSlots l).store.awaiting = s.store.awaiting := rfl

@[simp] theorem State.held_setSlots (s : State) (l : List (Nat × Slot)) : (s.setSlots l).store.held = s.store.held := rfl

@[simp] theorem State.source_setSource_self (s : State) (r : Source) (x : NoticeSource) :
    (s.setSource r x).source r = x := by
  simp [State.setSource, State.source]

theorem State.source_setSource_other (s : State) {r q : Source} (h : q ≠ r) (x : NoticeSource) :
    (s.setSource r x).source q = s.source q := by
  simp [State.setSource, State.source, PerSource.get_set_other _ h]

@[simp] theorem State.source_raise_self (s : State) (r : Source) (d : Word) :
    (s.raise r d).source r = (s.source r).occur d := by
  simp [State.raise, State.source]

theorem State.source_raise_other (s : State) {r q : Source} (h : q ≠ r) (d : Word) :
    (s.raise r d).source q = s.source q := by
  simp [State.raise, State.source, PerSource.get_set_other _ h]

theorem State.meter_setMeter_self (s : State) {n : Nat} (h : n < s.meters.meters.length) (m : Meter) :
    (s.setMeter n m).meter n = m := by
  simp [State.setMeter, State.meter, h]

theorem State.meter_setMeter_other (s : State) {n k : Nat} (h : k ≠ n) (m : Meter) :
    (s.setMeter n m).meter k = s.meter k := by
  simp [State.setMeter, State.meter, List.getElem?_set_ne (Ne.symm h)]

end Sys2Proof.Machine
end

