-- ==== Sys2Proof/Laws/Egress.lean ====
section
/-! SUPPORT. What each shared operation of an egress can do, said once: it works on its own port's egress and counters,
on the slots that this egress refers to, on the slot offer and on the restart report, and on nothing else. -/

namespace Sys2Proof.Safety

open Sys2Proof.Machine

/-! ## The frame as a relation -/

theorem SameUnit.refl (u : PortUnit) : SameUnit u u := rfl

theorem SameUnit.trans {u v w : PortUnit} (h1 : SameUnit u v) (h2 : SameUnit v w) : SameUnit u w := by
  unfold SameUnit at *
  rw [h2, h1]

theorem SameEgressSettings.refl (e : Egress) : SameEgressSettings e e := ⟨rfl, rfl, rfl, rfl⟩

theorem SameEgressSettings.trans {e f g : Egress} (h1 : SameEgressSettings e f) (h2 : SameEgressSettings f g) :
    SameEgressSettings e g :=
  ⟨h2.1.trans h1.1, h2.2.1.trans h1.2.1, h2.2.2.1.trans h1.2.2.1, h2.2.2.2.trans h1.2.2.2⟩

theorem EgressOnly.refl (p : Port) (s : State) : EgressOnly p [] s s where
  rules := rfl
  stations := rfl
  meters := rfl
  sync := rfl
  agent := rfl
  choices := rfl
  pending := rfl
  clock := rfl
  awaiting := rfl
  notices := rfl
  device := rfl
  unmarked := fun _ => rfl
  others := fun _ _ => rfl
  unit := .refl _
  settings := .refl _
  slots := fun _ _ => rfl

theorem EgressOnly.mono {p : Port} {l m : List Nat} {s t : State} (h : EgressOnly p l s t) (hs : ∀ n, n ∈ l → n ∈ m) :
    EgressOnly p m s t :=
  { h with slots := fun n hn => h.slots n (fun hl => hn (hs n hl)) }

theorem EgressOnly.trans {p : Port} {l m : List Nat} {s t u : State} (h1 : EgressOnly p l s t) (h2 : EgressOnly p m t u) :
    EgressOnly p (l ++ m) s u where
  rules := h2.rules.trans h1.rules
  stations := h2.stations.trans h1.stations
  meters := h2.meters.trans h1.meters
  sync := h2.sync.trans h1.sync
  agent := h2.agent.trans h1.agent
  choices := h2.choices.trans h1.choices
  pending := h2.pending.trans h1.pending
  clock := h2.clock.trans h1.clock
  awaiting := h2.awaiting.trans h1.awaiting
  notices := by rw [h2.notices, h1.notices]
  device := by rw [h2.device, h1.device]
  unmarked := fun hm => by
    have h := h1.unmarked hm
    have h' := h2.unmarked (by rw [h]; exact hm)
    rw [h', h]
  others := fun q hq => (h2.others q hq).trans (h1.others q hq)
  unit := SameUnit.trans h1.unit h2.unit
  settings := SameEgressSettings.trans h1.settings h2.settings
  slots := fun n hn => by
    rw [List.mem_append, not_or] at hn
    exact (h2.slots n hn.2).trans (h1.slots n hn.1)

/-- A working egress leaves the port's state as it was. -/
theorem EgressOnly.state_eq {p : Port} {l : List Nat} {s t : State} (h : EgressOnly p l s t) (q : Port) :
    (t.port q).state = (s.port q).state := by
  by_cases hq : q = p
  · subst hq
    rw [h.unit]
  · rw [h.others q hq]

theorem EgressOnly.inService_eq {p : Port} {l : List Nat} {s t : State} (h : EgressOnly p l s t) (q : Port) :
    t.inService q = s.inService q := by
  unfold State.inService
  rw [h.state_eq q]

theorem EgressOnly.isActive_eq {p : Port} {l : List Nat} {s t : State} (h : EgressOnly p l s t) (q : Port) :
    t.isActive q = s.isActive q := by
  unfold State.isActive
  rw [h.state_eq q]

end Sys2Proof.Safety

namespace Sys2Proof.Machine

open Sys2Proof.Safety

/-! ## The single operations -/

theorem setEgress_only {s : State} {p : Port} {e : Egress} (h : SameEgressSettings (s.port p).egress e) :
    EgressOnly p [] s (s.setEgress p e) where
  rules := rfl
  stations := rfl
  meters := rfl
  sync := rfl
  agent := rfl
  choices := rfl
  pending := rfl
  clock := rfl
  awaiting := rfl
  notices := rfl
  device := rfl
  unmarked := fun _ => rfl
  others := fun q hq => s.port_setEgress_other hq e
  unit := by rw [State.port_setEgress_self]; rfl
  settings := by rw [State.port_setEgress_self]; exact h
  slots := fun _ _ => rfl

theorem count_only (s : State) (p : Port) (c : Counter) : EgressOnly p [] s (s.count p c) where
  rules := rfl
  stations := rfl
  meters := rfl
  sync := rfl
  agent := rfl
  choices := rfl
  pending := rfl
  clock := rfl
  awaiting := rfl
  notices := rfl
  device := rfl
  unmarked := fun _ => rfl
  others := fun q hq => s.port_count_other hq c
  unit := by rw [State.port_count_self]; rfl
  settings := by rw [State.port_count_self]; exact .refl _
  slots := fun _ _ => rfl

/-- Only the end of the marked reply's stay is reported (R111). -/
theorem reportEnd_cases (s : State) (n : Nat) :
    (s.device.restartMark = some n ∧
      s.reportEnd n = { s with device := { s.device with restartMark := none, restartDue := true } }) ∨
    (s.device.restartMark ≠ some n ∧ s.reportEnd n = s) := by
  unfold State.reportEnd
  split
  · next h => exact .inl ⟨h, rfl⟩
  · next h => exact .inr ⟨h, rfl⟩

theorem reportEnd_only (s : State) (p : Port) (n : Nat) : EgressOnly p [] s (s.reportEnd n) := by
  rcases reportEnd_cases s n with ⟨hm, h⟩ | ⟨_, h⟩
  · rw [h]
    exact
      { rules := rfl, stations := rfl, meters := rfl, sync := rfl, agent := rfl, choices := rfl, pending := rfl, clock := rfl,
        awaiting := rfl, notices := rfl, device := rfl,
        unmarked := fun hn => by rw [hm] at hn; cases hn
        others := fun _ _ => rfl, unit := .refl _, settings := .refl _, slots := fun _ _ => rfl }
  · rw [h]
    exact EgressOnly.refl p s

/-- A holder gives a slot up: a free slot stays as it is, the last reference frees it and offers it, another reference
leaves the count one lower (R96). -/
theorem releaseRef_cases (s : State) (n : Nat) :
    (s.slot n = none ∧ s.releaseRef n = s) ∨
    (∃ x, s.slot n = some x ∧ x.refs ≤ 1 ∧ s.releaseRef n =
      { s with
        store := { s.store with slots := remove n s.store.slots, held := lowerHeld s.store.held x.origin }
        notices := { s.notices with offerDue := true } }) ∨
    (∃ x, s.slot n = some x ∧ 1 < x.refs ∧
      s.releaseRef n = s.setSlots (put n { x with refs := x.refs - 1 } s.store.slots)) := by
  unfold State.releaseRef
  split
  · next h => exact .inl ⟨h, rfl⟩
  · next x h =>
    split
    · next hr => exact .inr (.inl ⟨x, h, hr, rfl⟩)
    · next hr => exact .inr (.inr ⟨x, h, by omega, rfl⟩)

theorem releaseRef_only (s : State) (p : Port) (n : Nat) : EgressOnly p [n] s (s.releaseRef n) := by
  rcases releaseRef_cases s n with ⟨_, h⟩ | ⟨x, _, _, h⟩ | ⟨x, _, _, h⟩
  · rw [h]
    exact EgressOnly.mono (EgressOnly.refl p s) (by simp)
  · rw [h]
    exact
      { rules := rfl, stations := rfl, meters := rfl, sync := rfl, agent := rfl, choices := rfl, pending := rfl, clock := rfl,
        awaiting := rfl, notices := rfl, device := rfl, unmarked := fun _ => rfl,
        others := fun _ _ => rfl, unit := .refl _, settings := .refl _,
        slots := fun m hm => lookup_remove_other (by simpa using hm) _ }
  · rw [h]
    exact
      { rules := rfl, stations := rfl, meters := rfl, sync := rfl, agent := rfl, choices := rfl, pending := rfl, clock := rfl,
        awaiting := rfl, notices := rfl, device := rfl, unmarked := fun _ => rfl,
        others := fun _ _ => rfl, unit := .refl _, settings := .refl _,
        slots := fun m hm => lookup_put_other (by simpa using hm) _ _ }

/-- Writing one slot touches no other. -/
theorem setSlots_put_only (s : State) (p : Port) (n : Nat) (x : Slot) :
    EgressOnly p [n] s (s.setSlots (put n x s.store.slots)) where
  rules := rfl
  stations := rfl
  meters := rfl
  sync := rfl
  agent := rfl
  choices := rfl
  pending := rfl
  clock := rfl
  awaiting := rfl
  notices := rfl
  device := rfl
  unmarked := fun _ => rfl
  others := fun _ _ => rfl
  unit := .refl _
  settings := .refl _
  slots := fun m hm => lookup_put_other (by simpa using hm) _ _

theorem addRef_only (s : State) (p : Port) (n : Nat) : EgressOnly p [n] s (s.addRef n) := by
  unfold State.addRef
  split
  · exact EgressOnly.mono (EgressOnly.refl p s) (by simp)
  · exact setSlots_put_only s p n _

theorem fillSlot_only (s : State) (p : Port) (n : Nat) (f : Frame) (o : Origin) (k : Nat) :
    EgressOnly p [n] s (s.fillSlot n f o k) := setSlots_put_only s p n _

/-! ## Queues -/

theorem Egress.queue_cases (e : Egress) (c : BitVec 2) :
    (c = 3 ∧ e.queue c = e.q3) ∨ (c = 2 ∧ e.queue c = e.q2) ∨ (c = 1 ∧ e.queue c = e.q1) ∨
      (c = 0 ∧ e.queue c = e.q0) := by
  have : c = 3 ∨ c = 2 ∨ c = 1 ∨ c = 0 := by
    revert c; decide
  rcases this with rfl | rfl | rfl | rfl
  · exact .inl ⟨rfl, rfl⟩
  · exact .inr (.inl ⟨rfl, rfl⟩)
  · exact .inr (.inr (.inl ⟨rfl, rfl⟩))
  · exact .inr (.inr (.inr ⟨rfl, rfl⟩))

theorem mem_queuedSlots_of_queue {e : Egress} {c : BitVec 2} {n : Nat} (h : n ∈ e.queue c) : n ∈ queuedSlots e := by
  unfold queuedSlots
  rcases e.queue_cases c with ⟨_, hq⟩ | ⟨_, hq⟩ | ⟨_, hq⟩ | ⟨_, hq⟩ <;> rw [hq] at h <;> simp [h]

/-- What an egress queues once one queue is replaced: entries of that queue, or of the others. -/
theorem mem_queuedSlots_setQueue {e : Egress} {c : BitVec 2} {q : List Nat} {n : Nat}
    (h : n ∈ queuedSlots (e.setQueue c q)) : n ∈ q ∨ n ∈ queuedSlots e := by
  unfold queuedSlots Egress.setQueue at *
  repeat' split at h
  all_goals (simp only [List.mem_append] at *; grind)

theorem setQueue_settings (e : Egress) (c : BitVec 2) (q : List Nat) : SameEgressSettings e (e.setQueue c q) := by
  unfold Egress.setQueue
  repeat' split
  all_goals exact .refl _

theorem takeHead_settings (e : Egress) (c : BitVec 2) (b : Bool) : SameEgressSettings e (e.takeHead c b) := by
  unfold Egress.takeHead
  simp only
  split
  · exact setQueue_settings e c _
  · exact setQueue_settings e c _

theorem mem_queuedSlots_takeHead {e : Egress} {c : BitVec 2} {b : Bool} {n : Nat}
    (h : n ∈ queuedSlots (e.takeHead c b)) : n ∈ queuedSlots e := by
  have key : n ∈ queuedSlots (e.setQueue c ((e.queue c).drop 1)) := by
    unfold Egress.takeHead at h
    simp only at h
    split at h
    · exact h
    · exact h
  rcases mem_queuedSlots_setQueue key with h | h
  · exact mem_queuedSlots_of_queue (List.mem_of_mem_drop h)
  · exact h

/-- What a selection finds: the head of class queue 3; or, when that queue is empty, the head of the highest class of
the served round, in the egress with that round opened (R100 to R102). -/
theorem Egress.head_cases {e e' : Egress} {c : BitVec 2} {n : Nat} (h : e.head = some (c, n, e')) :
    (∃ rest, e.q3 = n :: rest ∧ c = 3 ∧ e' = e) ∨
    (e.q3 = [] ∧ e' = { e with round := e.servedRound } ∧ e.servedRound.highest = some c ∧
      ∃ rest, e.queue c = n :: rest) := by
  unfold Egress.head at h
  split at h
  · next m rest hq =>
    simp only [Option.some.injEq, Prod.mk.injEq] at h
    obtain ⟨rfl, rfl, rfl⟩ := h
    exact .inl ⟨rest, hq, rfl, rfl⟩
  · next hq =>
    simp only at h
    split at h
    · cases h
    · next c' hc =>
      split at h
      · cases h
      · next m rest hm =>
        simp only [Option.some.injEq, Prod.mk.injEq] at h
        obtain ⟨rfl, rfl, rfl⟩ := h
        exact .inr ⟨hq, rfl, hc, rest, hm⟩

theorem Egress.head_mem {e e' : Egress} {c : BitVec 2} {n : Nat} (h : e.head = some (c, n, e')) :
    n ∈ queuedSlots e ∧ SameEgressSettings e e' ∧ queuedSlots e' = queuedSlots e := by
  rcases Egress.head_cases h with ⟨rest, hq, rfl, rfl⟩ | ⟨hq, rfl, hc, rest, hm⟩
  · exact ⟨by simp [queuedSlots, hq], .refl _, rfl⟩
  · exact ⟨mem_queuedSlots_of_queue (c := c) (by rw [hm]; simp), ⟨rfl, rfl, rfl, rfl⟩, rfl⟩

/-! ## Selection and placement -/

theorem discardStale_only {s : State} {p : Port} {c : BitVec 2} {n : Nat} {e : Egress}
    (h : SameEgressSettings (s.port p).egress e) : EgressOnly p [n] s (s.discardStale p c n e) := by
  unfold State.discardStale
  have h1 : EgressOnly p [] s (s.setEgress p (e.takeHead c false)) :=
    setEgress_only (h.trans (takeHead_settings e c false))
  have h2 := (h1.trans (count_only _ p .txStale)).trans (reportEnd_only _ p n)
  exact (h2.trans (releaseRef_only _ p n)).mono (by simp)

theorem startTransmission_only {s : State} {p : Port} {c : BitVec 2} {n : Nat} {e : Egress}
    (h : SameEgressSettings (s.port p).egress e) : EgressOnly p [] s (s.startTransmission p c n e) := by
  unfold State.startTransmission
  exact setEgress_only (h.trans (takeHead_settings e c true))

theorem discardStale_egress (s : State) (p : Port) (c : BitVec 2) (n : Nat) (e : Egress) :
    ((s.discardStale p c n e).port p).egress = e.takeHead c false := by
  unfold State.discardStale
  have h1 : ∀ (u : State) (q : Port), ((u.releaseRef n).port q) = u.port q := by
    intro u q
    rcases releaseRef_cases u n with ⟨_, h⟩ | ⟨x, _, _, h⟩ | ⟨x, _, _, h⟩ <;> rw [h] <;> rfl
  have h2 : ∀ (u : State) (q : Port), ((u.reportEnd n).port q) = u.port q := by
    intro u q
    rcases reportEnd_cases u n with ⟨_, h⟩ | ⟨_, h⟩ <;> rw [h] <;> rfl
  rw [h1, h2, State.port_count_self, State.port_setEgress_self]

/-- A selection touches only slots that the egress queued. -/
theorem selectLoop_only (fuel : Nat) (s : State) (p : Port) :
    EgressOnly p (queuedSlots (s.port p).egress) s (s.selectLoop fuel p) := by
  induction fuel generalizing s with
  | zero => exact EgressOnly.mono (EgressOnly.refl p s) (by simp)
  | succ fuel ih =>
    unfold State.selectLoop
    split
    · exact EgressOnly.mono (EgressOnly.refl p s) (by simp)
    · next c n e hh =>
      obtain ⟨hn, hs, hq⟩ := Egress.head_mem hh
      split
      · have h1 := discardStale_only (c := c) (n := n) hs
        refine (h1.trans (ih _)).mono (fun m hm => ?_)
        rcases List.mem_append.mp hm with hm | hm
        · rw [List.mem_singleton.mp hm]
          exact hn
        · rw [discardStale_egress] at hm
          rw [← hq]
          exact mem_queuedSlots_takeHead hm
      · exact (startTransmission_only hs).mono (by simp)

theorem select_only (s : State) (p : Port) : EgressOnly p (queuedSlots (s.port p).egress) s (s.select p) := by
  unfold State.select
  split
  · exact selectLoop_only _ s p
  · exact EgressOnly.mono (EgressOnly.refl p s) (by simp)

theorem addRef_port (s : State) (n : Nat) (p : Port) : (s.addRef n).port p = s.port p := by
  unfold State.addRef
  split <;> rfl

theorem enqueue_only (s : State) (p : Port) (c : BitVec 2) (n : Nat) :
    EgressOnly p (n :: queuedSlots (s.port p).egress) s (s.enqueue p c n) := by
  unfold State.enqueue
  simp only
  have h1 : EgressOnly p [] s (s.setEgress p ((s.port p).egress.setQueue c ((s.port p).egress.queue c ++ [n]))) :=
    setEgress_only (setQueue_settings _ _ _)
  refine ((h1.trans (addRef_only _ p n)).trans (select_only _ p)).mono (fun m hm => ?_)
  simp only [List.nil_append, List.mem_append, List.mem_singleton] at hm
  rcases hm with rfl | hm
  · simp
  · rw [addRef_port, State.port_setEgress_self] at hm
    rcases mem_queuedSlots_setQueue hm with hm | hm
    · rcases List.mem_append.mp hm with hm | hm
      · exact List.mem_cons_of_mem _ (mem_queuedSlots_of_queue hm)
      · rw [List.mem_singleton.mp hm]; simp
    · exact List.mem_cons_of_mem _ hm

theorem place_only (s : State) (p : Port) (c : BitVec 2) (n : Nat) :
    EgressOnly p (n :: queuedSlots (s.port p).egress) s (s.place p c n) := by
  unfold State.place
  split
  · exact (count_only s p .txQFull).mono (by simp)
  · exact enqueue_only s p c n

/-- The frame the part built touches the lowest free slot and the slots queued at its port. -/
theorem placeOwn_only (s : State) (p : Port) (f : Frame) :
    EgressOnly p (s.lowestFreeSlot.toList ++ queuedSlots (s.port p).egress) s (s.placeOwn p f).2 := by
  unfold State.placeOwn
  split
  · exact EgressOnly.mono (EgressOnly.refl p s) (by simp)
  · next n hn =>
    split
    · split
      · exact (count_only s p .txQFull).mono (by simp)
      · exact ((fillSlot_only s p n f .agent 0).trans (enqueue_only _ p 3 n)).mono
          (fun m hm => by
            rw [hn]
            simpa [State.fillSlot, State.setSlots, State.port, eq_comm] using hm)
    · exact EgressOnly.mono (EgressOnly.refl p s) (by simp)

/-- What became of a frame that the part built (R94, R98, R148): the four rows of R148. -/
theorem placeOwn_cases (s : State) (p : Port) (f : Frame) :
    (s.lowestFreeSlot = none ∧ s.placeOwn p f = (.noSlot, s)) ∨
    (∃ n, s.lowestFreeSlot = some n ∧ s.inService p = false ∧ s.placeOwn p f = (.notOffered, s)) ∨
    (∃ n, s.lowestFreeSlot = some n ∧ s.inService p = true ∧ s.queueFull p 3 = true ∧
      s.placeOwn p f = (.queueFull, s.count p .txQFull)) ∨
    (∃ n, s.lowestFreeSlot = some n ∧ s.inService p = true ∧ s.queueFull p 3 = false ∧
      s.placeOwn p f = (.placed n, (s.fillSlot n f .agent 0).enqueue p 3 n)) := by
  unfold State.placeOwn
  cases hl : s.lowestFreeSlot with
  | none => exact .inl ⟨rfl, rfl⟩
  | some n =>
    cases hi : s.inService p with
    | false => exact .inr (.inl ⟨n, rfl, rfl, by simp⟩)
    | true =>
      cases hq : s.queueFull p 3 with
      | true => exact .inr (.inr (.inl ⟨n, rfl, rfl, rfl, by simp⟩))
      | false => exact .inr (.inr (.inr ⟨n, rfl, rfl, rfl, by simp⟩))

/-! ## The end of service -/

theorem abortTransmission_only (s : State) (p : Port) :
    EgressOnly p (s.port p).egress.transmitter.toList s (s.abortTransmission p) := by
  unfold State.abortTransmission
  simp only
  split
  · exact EgressOnly.mono (EgressOnly.refl p s) (by simp)
  · next n hn =>
    have h1 : EgressOnly p [] s
        (s.setEgress p { (s.port p).egress with transmitter := none, line := .abortMark }) :=
      setEgress_only ⟨rfl, rfl, rfl, rfl⟩
    have h2 := (h1.trans (count_only _ p .txAbort)).trans (reportEnd_only _ p n)
    exact (h2.trans (releaseRef_only _ p n)).mono (by simp [hn])

theorem releaseAll_only (l : List Nat) (s : State) (p : Port) : EgressOnly p l s (State.releaseAll l s) := by
  induction l generalizing s with
  | nil => exact EgressOnly.refl p s
  | cons n rest ih =>
    unfold State.releaseAll
    exact (((reportEnd_only s p n).trans (releaseRef_only _ p n)).trans (ih _)).mono (by simp)

theorem abortTransmission_egress (s : State) (p : Port) :
    ((s.abortTransmission p).port p).egress =
      { (s.port p).egress with
        transmitter := none
        line := if (s.port p).egress.transmitter = none then (s.port p).egress.line else .abortMark } := by
  unfold State.abortTransmission
  simp only
  split
  · next h => rw [h]; simp only [if_pos]; rw [← h]
  · next n h =>
    have h1 : ∀ (u : State) (q : Port), ((u.releaseRef n).port q) = u.port q := by
      intro u q
      rcases releaseRef_cases u n with ⟨_, h⟩ | ⟨x, _, _, h⟩ | ⟨x, _, _, h⟩ <;> rw [h] <;> rfl
    have h2 : ∀ (u : State) (q : Port), ((u.reportEnd n).port q) = u.port q := by
      intro u q
      rcases reportEnd_cases u n with ⟨_, h⟩ | ⟨_, h⟩ <;> rw [h] <;> rfl
    rw [h1, h2, State.port_count_self, State.port_setEgress_self, h]
    simp

theorem stopEgress_only (s : State) (p : Port) :
    EgressOnly p ((s.port p).egress.transmitter.toList ++ queuedSlots (s.port p).egress) s (s.stopEgress p) := by
  unfold State.stopEgress
  simp only
  have h1 := abortTransmission_only s p
  have h2 : EgressOnly p [] (s.abortTransmission p)
      ((s.abortTransmission p).setEgress p
        { ((s.abortTransmission p).port p).egress with q3 := [], q2 := [], q1 := [], q0 := [], round := .closed }) :=
    setEgress_only ⟨rfl, rfl, rfl, rfl⟩
  refine ((h1.trans h2).trans (releaseAll_only _ _ p)).mono (fun m hm => ?_)
  rw [abortTransmission_egress] at hm
  simpa [queuedSlots] using hm

/-- A stopped egress is IDLE and empty, its round closed (R109). -/
theorem stopEgress_egress (s : State) (p : Port) :
    ((s.stopEgress p).port p).egress =
      { (s.port p).egress with
        q3 := [], q2 := [], q1 := [], q0 := [], round := .closed, transmitter := none
        line := if (s.port p).egress.transmitter = none then (s.port p).egress.line else .abortMark } := by
  have h : ∀ (l : List Nat) (u : State) (q : Port), (State.releaseAll l u).port q = u.port q := by
    intro l
    induction l with
    | nil => intro u q; rfl
    | cons n rest ih =>
      intro u q
      unfold State.releaseAll
      rw [ih]
      have h1 : ∀ (u : State) (q : Port), ((u.releaseRef n).port q) = u.port q := by
        intro u q
        rcases releaseRef_cases u n with ⟨_, h⟩ | ⟨x, _, _, h⟩ | ⟨x, _, _, h⟩ <;> rw [h] <;> rfl
      rw [h1]
      rcases reportEnd_cases u n with ⟨_, h⟩ | ⟨_, h⟩ <;> rw [h] <;> rfl
  unfold State.stopEgress
  simp only
  rw [h, State.port_setEgress_self, abortTransmission_egress]

/-- The end of a transmission (R107): what it leaves at its own port. -/
theorem endTransmission_port (s : State) (p : Port) (n : Nat) :
    (s.endTransmission p n).port p =
      { s.port p with
        counters := (s.port p).counters.bump .txGood
        egress := { (s.port p).egress with transmitter := none, line := .endMark } } := by
  have h : ∀ u : State, ((u.reportEnd n).releaseRef n).port p = u.port p := by
    intro u
    have h1 : ((u.reportEnd n).releaseRef n).port p = (u.reportEnd n).port p := by
      rcases releaseRef_cases (u.reportEnd n) n with ⟨_, h⟩ | ⟨x, _, _, h⟩ | ⟨x, _, _, h⟩ <;> rw [h] <;> rfl
    rw [h1]
    rcases reportEnd_cases u n with ⟨_, h⟩ | ⟨_, h⟩ <;> rw [h] <;> rfl
  unfold State.endTransmission
  simp only [h, State.port_setEgress_self, State.port_count_self]

theorem endTransmission_only (s : State) (p : Port) (n : Nat) : EgressOnly p [n] s (s.endTransmission p n) := by
  unfold State.endTransmission
  have h1 := count_only s p .txGood
  have h2 : EgressOnly p [] (s.count p .txGood)
      ((s.count p .txGood).setEgress p { (s.port p).egress with transmitter := none, line := .endMark }) :=
    setEgress_only (by rw [State.port_count_self]; exact ⟨rfl, rfl, rfl, rfl⟩)
  exact (((h1.trans h2).trans (reportEnd_only _ p n)).trans (releaseRef_only _ p n)).mono (fun m hm => by simpa using hm)

/-- A completion ends the transmission and selects; where an order of R107 is open, a choice is counted, and the service
event of the Notice Unit may stand between the two. -/
theorem finishTransmission_cases (s : State) (p : Port) (n : Nat) :
    s.finishTransmission p n = (s.endTransmission p n).select p ∨
    s.finishTransmission p n =
      ({ s.endTransmission p n with choices := (s.endTransmission p n).choices + 1 } : State).select p ∨
    s.finishTransmission p n =
      ({ s.endTransmission p n with choices := (s.endTransmission p n).choices + 1 } : State).takeService.select p := by
  unfold State.finishTransmission
  simp only
  split
  · split
    · exact .inr (.inr rfl)
    · exact .inr (.inl rfl)
  · exact .inl rfl

/-- Without a candidate, or while other references hold the slot, no order is open. -/
theorem finishTransmission_settled {s : State} {p : Port} {n : Nat}
    (h : (s.endTransmission p n).slot n ≠ none ∨ anyCandidate (s.endTransmission p n) = false) :
    s.finishTransmission p n = (s.endTransmission p n).select p := by
  unfold State.finishTransmission
  rw [if_neg]
  rintro ⟨h1, h2⟩
  rcases h with h | h
  · exact h h1
  · rw [h] at h2; cases h2

end Sys2Proof.Machine
end

