-- ==== Sys2Proof/Laws/Execution.lean ====
section
/-! SUPPORT. What steps 4 to 6 of R145 can do, said once for the 25 commands: `completeRequest_frame` and
`completeRequest_answered`. -/

namespace Sys2Proof.Machine

open Sys2Proof.Safety

/-! ## The parts -/

/-- Step 4 changes the claim timer of the holder's claim and nothing else (R151). -/
theorem restartClaimTimer_eq (station : Word) (s : State) :
    restartClaimTimer station s =
      { s with agent := { s.agent with claim := renewedClaim station s.agent.claim } } := by
  unfold restartClaimTimer renewedClaim
  cases h : s.agent.claim with
  | none =>
    simp only
    rw [← h]
  | some c =>
    simp only
    split
    · rfl
    · rw [← h]

theorem countReplyLost_eq (pl : Placed) (s : State) :
    countReplyLost pl s =
      { s with agent :=
          { s.agent with replyLost := s.agent.replyLost + (match pl with | .placed _ => 0 | _ => 1) } } := by
  cases pl with
  | placed n => show s = _; simp
  | noSlot => rfl
  | notOffered => rfl
  | queueFull => rfl

theorem takeRequest_eq (s : State) (he : s.agent.executing = none) (hr : s.device.state = .running) :
    s.takeRequest =
      { s with agent := { s.agent with queue := s.agent.queue.tail, executing := s.agent.queue.head? } } := by
  unfold State.takeRequest
  rw [if_pos ⟨he, hr⟩]
  cases h : s.agent.queue with
  | nil =>
    simp only [List.tail_nil, List.head?_nil]
    rw [← he, ← h]
  | cons r rest => rfl

theorem takeRequest_idle (s : State) (hr : s.device.state ≠ .running) : s.takeRequest = s := by
  unfold State.takeRequest
  rw [if_neg (fun h => hr h.2)]

/-- A working egress leaves the device state as it was. -/
theorem EgressOnly_deviceState {p : Port} {l : List Nat} {s t : State} (h : EgressOnly p l s t) :
    t.device.state = s.device.state := by
  rw [h.device]

/-- The reply is placed unless R148 says that it cannot be. -/
theorem placeOwn_placed_iff (s : State) (p : Port) (f : Frame) :
    (replyCannotBePlaced s p ∧ ∀ n, (s.placeOwn p f).1 ≠ .placed n) ∨
    (¬ replyCannotBePlaced s p ∧ ∃ n, s.lowestFreeSlot = some n ∧ (s.placeOwn p f).1 = .placed n) := by
  unfold replyCannotBePlaced
  rcases placeOwn_cases s p f with ⟨h, ho⟩ | ⟨n, hn, hi, ho⟩ | ⟨n, hn, hi, hq, ho⟩ | ⟨n, hn, hi, hq, ho⟩
  · left
    rw [ho]
    exact ⟨.inl h, fun n h => nomatch h⟩
  · left
    rw [ho]
    exact ⟨.inr (.inl hi), fun n h => nomatch h⟩
  · left
    rw [ho]
    exact ⟨.inr (.inr hq), fun n h => nomatch h⟩
  · right
    rw [ho, hn, hi, hq]
    exact ⟨by simp, n, rfl, rfl⟩

/-! ## The whole -/

/-- The part once the reply has been offered and cached, before the request's slot is released. -/
def offeredReply (r : Request) (f : Frame) (restart : Bool) (a : Answer) : State :=
  let out := (restartClaimTimer r.source a.state).placeOwn r.port (buildReply r f a)
  let s1 := countReplyLost out.1 out.2
  cacheReply r (buildReply r f a) (if restart then markRestartReply out.1 s1 else s1)

theorem completeRequest_eq (r : Request) (f : Frame) (restart : Bool) (a : Answer) :
    completeRequest r f restart a = endExecution r (offeredReply r f restart a) := rfl

/-- The agent after the reply has been offered and cached. -/
theorem offeredReply_agent (r : Request) (f : Frame) (restart : Bool) (a : Answer) :
    (offeredReply r f restart a).agent =
      { a.state.agent with
        claim := renewedClaim r.source a.state.agent.claim
        cache := (a.state.agent.cache ++ [(⟨r.source, r.id, buildReply r f a⟩ : CacheEntry)]).drop
          (a.state.agent.cache.length + 1 - Config.cacheDepth)
        replyLost := a.state.agent.replyLost +
          (match ((restartClaimTimer r.source a.state).placeOwn r.port (buildReply r f a)).1 with
            | .placed _ => 0 | _ => 1) } := by
  have ho := placeOwn_only (restartClaimTimer r.source a.state) r.port (buildReply r f a)
  unfold offeredReply cacheReply
  simp only
  generalize hout : (restartClaimTimer r.source a.state).placeOwn r.port (buildReply r f a) = out at ho ⊢
  have hm : ∀ (b : Bool) (u : State),
      (if b then markRestartReply out.1 u else u).agent = u.agent := by
    intro b u
    cases b
    · rfl
    · simp only [if_pos]
      unfold markRestartReply
      split <;> rfl
  rw [hm, countReplyLost_eq]
  simp only
  rw [ho.agent, restartClaimTimer_eq]
  simp

/-- Everything but the agent, the reply's port, and the slots it may touch is as the command left it; the restart mark is
set only for a restart. -/
theorem offeredReply_only (r : Request) (f : Frame) (a : Answer) :
    let t := offeredReply r f false a
    let l := a.state.lowestFreeSlot.toList ++ queuedSlots (a.state.port r.port).egress
    ∃ u, EgressOnly r.port l { a.state with agent := (offeredReply r f false a).agent } u ∧ t = u := by
  intro t l
  refine ⟨t, ?_, rfl⟩
  have ho := placeOwn_only (restartClaimTimer r.source a.state) r.port (buildReply r f a)
  have hp : (restartClaimTimer r.source a.state).port = a.state.port := by
    rw [restartClaimTimer_eq]
    rfl
  have hl : (restartClaimTimer r.source a.state).lowestFreeSlot = a.state.lowestFreeSlot := by
    rw [restartClaimTimer_eq]
    rfl
  rw [hp, hl] at ho
  have ht : t = { ((restartClaimTimer r.source a.state).placeOwn r.port (buildReply r f a)).2 with agent := t.agent } := by
    have hx : ∀ (pl : Placed) (x : State), { x with agent := (cacheReply r (buildReply r f a) (countReplyLost pl x)).agent } =
        cacheReply r (buildReply r f a) (countReplyLost pl x) := by
      intro pl x
      rw [countReplyLost_eq]
      rfl
    exact (hx _ _).symm
  have hs : ∀ (X Y : State) (g : Agent), EgressOnly r.port l X Y → EgressOnly r.port l { X with agent := g } { Y with agent := g } := by
    intro X Y g h
    exact { h with agent := rfl }
  have := hs _ _ t.agent ho
  rw [← ht] at this
  have hx : { restartClaimTimer r.source a.state with agent := t.agent } = { a.state with agent := t.agent } := by
    rw [restartClaimTimer_eq]
  rw [hx] at this
  exact this

/-- Step 6 in RUNNING: the request's slot is released and the head of the queue moves into the execution position
(R144). -/
theorem endExecution_eq (r : Request) (s : State) (hr : (s.releaseRef r.slot).device.state = .running) :
    endExecution r s =
      { s.releaseRef r.slot with
        agent :=
          { (s.releaseRef r.slot).agent with
            queue := (s.releaseRef r.slot).agent.queue.tail
            executing := (s.releaseRef r.slot).agent.queue.head? } } := by
  unfold endExecution
  have h := takeRequest_eq
    { s.releaseRef r.slot with agent := { (s.releaseRef r.slot).agent with executing := none } } rfl hr
  exact h

/-- Steps 4 to 6 of R145, for every command but a RESTART FULL that is carried out. -/
theorem completeRequest_frame (r : Request) (f : Frame) (a : Answer) (hr : a.state.device.state = .running) :
    ExecutionFrame r a.state (completeRequest r f false a) := by
  obtain ⟨u, hu, hut⟩ := offeredReply_only r f a
  have hag := offeredReply_agent r f false a
  have hrel := releaseRef_only u r.port r.slot
  have hall := hu.trans hrel
  have hst : (u.releaseRef r.slot).device.state = .running := by
    rw [hall.device]
    exact hr
  have heq : completeRequest r f false a =
      { u.releaseRef r.slot with
        agent :=
          { (u.releaseRef r.slot).agent with
            queue := (u.releaseRef r.slot).agent.queue.tail
            executing := (u.releaseRef r.slot).agent.queue.head? } } := by
    rw [completeRequest_eq, hut]
    exact endExecution_eq r u hst
  have hagu : (u.releaseRef r.slot).agent = (offeredReply r f false a).agent := by
    rw [hall.agent]
  have hlost := placeOwn_placed_iff (restartClaimTimer r.source a.state) r.port (buildReply r f a)
  have hcb : replyCannotBePlaced (restartClaimTimer r.source a.state) r.port ↔ replyCannotBePlaced a.state r.port := by
    rw [restartClaimTimer_eq]
    exact Iff.rfl
  rw [hcb] at hlost
  rw [heq]
  refine
    { rules := hall.rules, stations := hall.stations, meters := hall.meters, sync := hall.sync, choices := hall.choices, pending := hall.pending,
      clock := hall.clock, awaiting := hall.awaiting, notices := hall.notices, device := hall.unmarked,
      others := hall.others, unit := hall.unit, settings := hall.settings,
      slots := fun n h1 h2 h3 => hall.slots n ?_,
      address := ?_, restartCount := ?_, startupDiscards := ?_, reqMalformed := ?_, reqDuplicate := ?_,
      reqDropped := ?_, replyLost := ?_, claim := ?_, executing := ?_, queue := ?_ }
  · simp only [List.mem_append, Option.mem_toList, List.mem_singleton, not_or]
    exact ⟨⟨h3, h2⟩, h1⟩
  · show (u.releaseRef r.slot).agent.address = _
    rw [hagu, hag]
  · show (u.releaseRef r.slot).agent.restartCount = _
    rw [hagu, hag]
  · show (u.releaseRef r.slot).agent.startupDiscards = _
    rw [hagu, hag]
  · show (u.releaseRef r.slot).agent.reqMalformed = _
    rw [hagu, hag]
  · show (u.releaseRef r.slot).agent.reqDuplicate = _
    rw [hagu, hag]
  · show (u.releaseRef r.slot).agent.reqDropped = _
    rw [hagu, hag]
  · show (_ → (u.releaseRef r.slot).agent.replyLost = _) ∧ (_ → (u.releaseRef r.slot).agent.replyLost = _)
    rw [hagu, hag]
    rcases hlost with ⟨hc, hp⟩ | ⟨hc, n, _, hp⟩
    · refine ⟨fun _ => ?_, fun h => absurd hc h⟩
      cases hx : ((restartClaimTimer r.source a.state).placeOwn r.port (buildReply r f a)).1 with
      | placed n => exact absurd hx (hp n)
      | noSlot => rfl
      | notOffered => rfl
      | queueFull => rfl
    · refine ⟨fun h => absurd h hc, fun _ => ?_⟩
      simp only [hp]
      simp
  · show (u.releaseRef r.slot).agent.claim = _
    rw [hagu, hag]
  · show (u.releaseRef r.slot).agent.queue.head? = _
    rw [hagu, hag]
  · show (u.releaseRef r.slot).agent.queue.tail = _
    rw [hagu, hag]

/-- The reply enters the cache with the command's status and results (R147, R149). -/
theorem completeRequest_answered (r : Request) (f : Frame) (a : Answer) (hr : a.state.device.state = .running) :
    Answered a.state (completeRequest r f false a) r f a.status a.results := by
  obtain ⟨u, hu, hut⟩ := offeredReply_only r f a
  have hag := offeredReply_agent r f false a
  have hall := hu.trans (releaseRef_only u r.port r.slot)
  have hst : (u.releaseRef r.slot).device.state = .running := by
    rw [hall.device]
    exact hr
  have hagu : (u.releaseRef r.slot).agent = (offeredReply r f false a).agent := by
    rw [hall.agent]
  have heq : completeRequest r f false a =
      { u.releaseRef r.slot with
        agent :=
          { (u.releaseRef r.slot).agent with
            queue := (u.releaseRef r.slot).agent.queue.tail
            executing := (u.releaseRef r.slot).agent.queue.head? } } := by
    rw [completeRequest_eq, hut]
    exact endExecution_eq r u hst
  refine ⟨buildReply r f a, ?_, ?_⟩
  · rw [heq]
    show (u.releaseRef r.slot).agent.cache = _
    rw [hagu, hag]
  · have hru : (completeRequest r f false a).rules = a.state.rules := (completeRequest_frame r f a hr).rules
    have had : (completeRequest r f false a).agent.address = a.state.agent.address :=
      (completeRequest_frame r f a hr).address
    rw [hru, had]
    rfl

/-- An execution event whose request stands in the execution position completes that request. -/
theorem runRequest_executing {s : State} {r : Request} {f : Frame} (h : Executing s r f)
    {mine : List Byte → Bool} (hm : mine f.payload = true) (judge : Request → List Byte → State → Answer) :
    runRequest mine judge s = completeRequest r f false (judge r f.payload s) := by
  unfold runRequest
  unfold Executing at h
  rw [h]
  simp [hm]

/-- An execution can be taken only while the device is RUNNING and RESET_N is not low. -/
theorem Executing_running {s : State} {r : Request} {f : Frame} (h : Executing s r f) :
    s.device.state = .running ∧ s.device.resetHeld = false ∧ s.agent.executing = some r := by
  unfold Executing State.executable at h
  split at h
  · next hc =>
    refine ⟨hc.2, hc.1, ?_⟩
    split at h
    · cases h
    · next r' hr' =>
      split at h
      · cases h
      · cases h
        exact hr'
  · cases h

/-- The one way every execution statement is proved: the command's answer, and steps 4 to 6 after it. -/
theorem execution_completes {s : State} {r : Request} {f : Frame} (h : Executing s r f)
    {mine : List Byte → Bool} (hm : mine f.payload = true) {judge : Request → List Byte → State → Answer}
    {a : Answer} (ha : judge r f.payload s = a) (hr : a.state.device.state = .running) :
    ∃ t, runRequest mine judge s = t ∧ ExecutionFrame r a.state t ∧ Answered a.state t r f a.status a.results := by
  refine ⟨_, runRequest_executing h hm judge, ?_, ?_⟩
  · rw [ha]
    exact completeRequest_frame r f a hr
  · rw [ha]
    exact completeRequest_answered r f a hr

/-! ## The claim and the form -/

theorem withForm_ok {payload : List Byte} {n : Nat} {s : State} {a : Answer} (h : formOk payload n = true) :
    withForm payload n s a = a := if_pos h

theorem withForm_bad {payload : List Byte} {n : Nat} {s : State} {a : Answer} (h : formOk payload n = false) :
    withForm payload n s a = refuse .badArg s := by
  unfold withForm
  rw [h]
  rfl

theorem withClaim_holder {r : Request} {s : State} {a : Answer} (h : Holder s r) : withClaim r s a = a := if_pos h

theorem withClaim_other {r : Request} {s : State} {a : Answer} (h : ¬ Holder s r) :
    withClaim r s a = refuse .notHolder s := if_neg h

theorem isCommand_of_asks {f : Frame} {code : Byte} {n : Nat} (h : Asks f code n) : isCommand code f.payload = true :=
  decide_eq_true h.1

/-- An execution event whose command answers `a` completes with `a`. -/
theorem completes {i : Instr} {mine : List Byte → Bool} {judge : Request → List Byte → State → Answer} {s s' : State}
    {r : Request} {f : Frame} {st : Status} {results : List Byte} (he : Executing s r f)
    (hi : exec i s = .next (runRequest mine judge s)) (hm : mine f.payload = true)
    (ha : judge r f.payload s = ⟨st, results, s'⟩) (hr : s'.device.state = .running) :
    Completes i s s' r f st results := by
  obtain ⟨t, ht, h1, h2⟩ := execution_completes he hm ha hr
  exact ⟨t, by rw [hi, ht], h1, h2⟩

end Sys2Proof.Machine
end

