-- ==== Sys2Proof/Laws/Blocks.lean ====
section
/-! SUPPORT. What each operation that reaches over several blocks can do, said once: the fields it writes, and that it
leaves the others. -/

namespace Sys2Proof.Safety

open Sys2Proof.Machine

/-! ## The gate and the lock (R79 to R81, R131 to R133) -/

/-- The gate stands as it was handed over; only the meters are written. -/
theorem setGate_only (s : State) (isOpen : Bool) :
    s.setGate isOpen = { s with meters := (s.setGate isOpen).meters } ∧
      (s.setGate isOpen).meters.gateOpen = isOpen := by
  unfold State.setGate
  split
  · next h => exact ⟨rfl, h⟩
  · exact ⟨rfl, rfl⟩

/-- A trunk SYNC event writes the lock and the meters (R131). -/
theorem trunkSync_only (s : State) :
    s.trunkSync =
      { s with
        sync := { s.sync with locked := true, timer := some s.sync.timeout }
        meters := s.trunkSync.meters } ∧
      s.trunkSync.meters.gateOpen = true := by
  unfold State.trunkSync
  have h := setGate_only { s with sync := { s.sync with locked := true, timer := some s.sync.timeout } } true
  generalize State.setGate _ true = u at *
  refine ⟨?_, h.2⟩
  unfold State.serveTriggers
  rw [h.1]

/-- The loss of the lock raises SYNC_LOST, closes the gate and stops the timer (R132, R133). -/
theorem loseSync_only (s : State) (detail : Word) :
    s.loseSync detail =
      { s with
        sync := { s.sync with locked := false, timer := none }
        notices := (s.raise .syncLost detail).notices
        meters := (s.loseSync detail).meters } ∧
      (s.loseSync detail).meters.gateOpen = false := by
  unfold State.loseSync
  have h := setGate_only
    (State.raise { s with sync := { s.sync with locked := false, timer := none } } .syncLost detail) false
  generalize State.setGate _ false = u at *
  exact ⟨h.1, h.2⟩

/-- T's port state leaves ACTIVE: the timer stops, and a LOCKED lock is lost (R133). -/
theorem trunkLeavesActive_cases (s : State) :
    (s.sync.locked = true ∧ s.trunkLeavesActive = s.loseSync 1) ∨
      (s.sync.locked = false ∧ s.trunkLeavesActive = { s with sync := { s.sync with timer := none } }) := by
  unfold State.trunkLeavesActive
  split
  · next h => exact .inl ⟨h, rfl⟩
  · next h => exact .inr ⟨by simpa using h, rfl⟩

/-! ## Learning, hit counters and meters -/

/-- Learning writes the Station Table, and raises MOVE_STORM or STATION_FULL (R55 to R59). -/
theorem learn_only (s : State) (a : Word) (p : Port) :
    (s.learn a p).2 = { s with stations := (s.learn a p).2.stations, notices := (s.learn a p).2.notices } := by
  unfold State.learn
  split
  · split <;> rfl
  · split
    · split <;> rfl
    · split
      · rfl
      · unfold State.countMove
        simp only
        split <;> rfl

/-- A hit counter is the Rule List's (R10). -/
theorem countHit_only (d : Decision) (s : State) : countHit d s = { s with rules := (countHit d s).rules } := by
  unfold countHit
  split <;> rfl

/-- A consultation writes the meters, and raises METER_SPENT (R74, R75). -/
theorem consult_only (s : State) (n cost : Nat) :
    (s.consult n cost).2 = { s with meters := (s.consult n cost).2.meters, notices := (s.consult n cost).2.notices } := by
  unfold State.consult
  simp only
  split
  · rfl
  · split
    · rfl
    · simp only
      split <;> rfl

/-! ## Slots and requests -/

/-- A rewrite replaces the content of its slot (R45 to R47). -/
theorem rewriteSlot_cases (s : State) (n : Nat) (f : Frame) :
    (s.slot n = none ∧ s.rewriteSlot n f = s) ∨
      ∃ x, s.slot n = some x ∧ s.rewriteSlot n f = s.setSlots (put n { x with frame := f } s.store.slots) := by
  unfold State.rewriteSlot
  split
  · next h => exact .inl ⟨h, rfl⟩
  · next x h => exact .inr ⟨x, h, rfl⟩

/-- The request take moves requests within the Agent (R144). -/
theorem takeRequest_only (s : State) : s.takeRequest = { s with agent := s.takeRequest.agent } := by
  unfold State.takeRequest
  split
  · split <;> rfl
  · rfl

/-- A WAITING unit stays so while it holds a candidate (R187). -/
theorem settleReady_eq (s : State) :
    s.settleReady = { s with notices := { s.notices with waiting := s.notices.waiting && anyCandidate s } } := by
  unfold State.settleReady
  split
  · next h => rw [h, Bool.and_true]
  · next h =>
    have h : anyCandidate s = false := by simpa using h
    rw [h, Bool.and_false]

/-! ## Leaving service and changing mode (R121 to R123, R62, R109, R133) -/

/-- A port that leaves service takes the new state with its receiver IDLE, its egress stopped and its error count 0; the
others are untouched. -/
theorem leaveService_ports (s : State) (p : Port) (new : PortState) :
    (s.leaveService p new).port p =
        { (s.stopEgress p).port p with state := new, receiver := .idle, errorCount := 0 } ∧
      ∀ q, q ≠ p → (s.leaveService p new).port q = s.port q := by
  have hl : ∀ u : State, u.trunkLeavesActive.ports = u.ports := by
    intro u
    rcases trunkLeavesActive_cases u with ⟨_, h⟩ | ⟨_, h⟩ <;> rw [h]
    rw [(loseSync_only u 1).1]
  have hp : (s.leaveService p new).ports =
      (s.stopEgress p).ports.set p
        { (s.stopEgress p).port p with state := new, receiver := .idle, errorCount := 0 } := by
    unfold State.leaveService
    simp only
    split
    · rw [hl]
      rfl
    · rfl
  constructor
  · unfold State.port
    rw [hp, PerPort.get_set_self]
    rfl
  · intro q hq
    unfold State.port
    rw [hp, PerPort.get_set_other _ hq]
    exact (stopEgress_only s p).others q hq

/-! ## Every egress stopped (R110, R113) -/

/-- An egress once it is stopped: nothing queued, nothing sent, no round, an abort mark where it was sending. -/
def stoppedEgress (e : Egress) : Egress :=
  { e with
    q3 := [], q2 := [], q1 := [], q0 := [], round := .closed, transmitter := none
    line := if e.transmitter = none then e.line else .abortMark }

/-- Stopping every egress writes the ports' egresses and counters, the slots, the slot offer and the restart report. -/
theorem stopAll_only (s : State) :
    s.stopAll =
      { s with
        ports := s.stopAll.ports
        store := { s.store with slots := s.stopAll.store.slots, held := s.stopAll.store.held }
        notices := { s.notices with offerDue := s.stopAll.notices.offerDue }
        device := { s.device with
          restartMark := s.stopAll.device.restartMark, restartDue := s.stopAll.device.restartDue } } := by
  have key : ∀ (u : State) (p : Port), u.stopEgress p =
      { u with
        ports := (u.stopEgress p).ports
        store := { u.store with slots := (u.stopEgress p).store.slots, held := (u.stopEgress p).store.held }
        notices := { u.notices with offerDue := (u.stopEgress p).notices.offerDue }
        device := { u.device with
          restartMark := (u.stopEgress p).device.restartMark, restartDue := (u.stopEgress p).device.restartDue } } := by
    intro u p
    have h := stopEgress_only u p
    generalize u.stopEgress p = v at *
    obtain ⟨h1, h2, h3, h4, h5, h6, h7, h8, h9, h10, h11, _, _, _, _, _⟩ := h
    cases v
    simp only at *
    subst h1 h2 h3 h4 h5 h6 h7
    rw [← h8, ← h9, h10, h11]
  have h1 := key s .t
  have h2 := key (s.stopEgress .t) .b1
  have h3 := key ((s.stopEgress .t).stopEgress .b1) .b2
  have h4 := key (((s.stopEgress .t).stopEgress .b1).stopEgress .b2) .b3
  have h5 := key ((((s.stopEgress .t).stopEgress .b1).stopEgress .b2).stopEgress .b3) .b4
  unfold State.stopAll
  generalize s.stopEgress .t = s1 at *
  generalize s1.stopEgress .b1 = s2 at *
  generalize s2.stopEgress .b2 = s3 at *
  generalize s3.stopEgress .b3 = s4 at *
  generalize s4.stopEgress .b4 = s5 at *
  rw [h5, h4, h3, h2, h1]

/-- Stopping every egress leaves each port's unit as it was, but for its counters and its stopped egress. -/
theorem stopAll_port (s : State) (p : Port) :
    s.stopAll.port p =
      { s.port p with counters := (s.stopAll.port p).counters, egress := stoppedEgress (s.port p).egress } := by
  have key : ∀ (u : State) (q r : Port), (u.stopEgress q).port r =
      if r = q then
        { u.port r with counters := ((u.stopEgress q).port r).counters, egress := stoppedEgress (u.port r).egress }
      else u.port r := by
    intro u q r
    have h := stopEgress_only u q
    split
    · next hr =>
      subst hr
      have hu := h.unit
      unfold SameUnit at hu
      rw [hu, stopEgress_egress]
      rfl
    · next hr => exact h.others r hr
  unfold State.stopAll
  have h5 := key ((((s.stopEgress .t).stopEgress .b1).stopEgress .b2).stopEgress .b3) .b4 p
  have h4 := key (((s.stopEgress .t).stopEgress .b1).stopEgress .b2) .b3 p
  have h3 := key ((s.stopEgress .t).stopEgress .b1) .b2 p
  have h2 := key (s.stopEgress .t) .b1 p
  have h1 := key s .t p
  generalize s.stopEgress .t = s1 at *
  generalize s1.stopEgress .b1 = s2 at *
  generalize s2.stopEgress .b2 = s3 at *
  generalize s3.stopEgress .b3 = s4 at *
  generalize s4.stopEgress .b4 = s5 at *
  cases p <;> simp only [reduceCtorEq, if_false, if_true] at h1 h2 h3 h4 h5
  · rw [h5, h4, h3, h2]
    exact h1
  · rw [h5, h4, h3]
    rw [h1] at h2
    exact h2
  · rw [h5, h4]
    rw [h2, h1] at h3
    exact h3
  · rw [h5]
    rw [h3, h2, h1] at h4
    exact h4
  · rw [h4, h3, h2, h1] at h5
    exact h5

end Sys2Proof.Safety
end

