-- ==== Sys2Proof/Laws/Events.lean ====
section
/-! SUPPORT. What a command and what an event can do, each said once: every command leaves the part in one of the ways of
`CommandEffect`, every event in one of the ways of `EventEffect`. An invariant is proved over these cases. -/

namespace Sys2Proof.Safety

open Sys2Proof.Machine

/-- What steps 1 to 3 of R145 can make of the part `s` for request `r`. -/
inductive CommandEffect (r : Request) (s : State) : State → Prop
  | nothing : CommandEffect r s s
  | claim (c : Option Claim) (h : c = none ∨ ∃ d, c = some ⟨r.source, d, d * 1000⟩) : CommandEffect r s (s.setClaim c)
  | address (a : Word) (h : isStation a = true) : CommandEffect r s { s with agent := { s.agent with address := a } }
  | setPort (p : Port) (payload : List Byte) (mode : Mode) (h : setPortArgsOk payload = true) :
      CommandEffect r s ((s.setPort p ((s.port p).withSettings payload)).applyMode p mode)
  | clearCounters (p : Port) : CommandEffect r s (s.setPort p (s.port p).clearCounters)
  | header (h : Header) : CommandEffect r s (s.setStandby { s.standbyBank with header := h })
  | writeRule (n : Nat) (record : List Byte) (rule : Rule) (hn : n < Config.positionCount)
      (hr : readRuleRecord record = .ok rule) :
      CommandEffect r s (s.setStandby { s.standbyBank with positions := put n ⟨rule, 0⟩ s.standbyBank.positions })
  | clearRules : CommandEffect r s (s.setStandby { s.standbyBank with positions := [] })
  | clearRule (n : Nat) :
      CommandEffect r s (s.setStandby { s.standbyBank with positions := remove n s.standbyBank.positions })
  | copy (h : s.rules.copying = false) : CommandEffect r s { s with rules := { s.rules with copying := true } }
  | switch (h : s.rules.copying = false) :
      CommandEffect r s
        { s with rules := { s.rules with working := s.rules.standby, generation := s.rules.generation + 1 } }
  | writeStation (a : Word) (q : Port) (h : s.station a = none → s.tableFull = false) :
      CommandEffect r s (s.setEntries (put a.toNat ⟨q, .pinned⟩ s.stations.entries))
  | deleteStation (a : Word) : CommandEffect r s (s.setEntries (remove a.toNat s.stations.entries))
  | flush : CommandEffect r s (s.setEntries (removeLearned s.stations.entries))
  | flushPort (q : Port) : CommandEffect r s (s.setEntries (removeLearnedOn q s.stations.entries))
  | aging (limit threshold : Nat) :
      CommandEffect r s
        { s with stations :=
            { s.stations with
              entries := mapValues (capAge limit) s.stations.entries, ageLimit := limit, threshold := threshold } }
  | setMeter (n : Nat) (payload : List Byte) (m : Meter) (hn : n < Config.meterCount)
      (h : configuredMeter payload s.meters.gateOpen = some m) : CommandEffect r s (s.setMeter n m)
  | rearm (n : Nat) (hn : n < Config.meterCount) (h : (s.meter n).mode = .single) :
      CommandEffect r s (s.setMeter n { s.meter n with credit := (s.meter n).ceiling, arm := .armed })
  | clearMeter (n : Nat) (hn : n < Config.meterCount) :
      CommandEffect r s (s.setMeter n { s.meter n with conform := 0, exceeded := 0 })
  | setSync (timeout : Nat) (h : timeout ≠ 0) : CommandEffect r s { s with sync := s.sync.setTimeout timeout }
  | setNotice (target : Word) (port : Port) (set : Byte) (interval : Nat) :
      CommandEffect r s (applyNotice s target port set interval)
  | ack (q : Source) : CommandEffect r s ((s.setSource q (s.source q).settled).settleReady).causeService
  | traffic : CommandEffect r s s.restartTraffic

/-- A command refused by the claim or the form check does nothing. -/
theorem CommandEffect.withClaim {r : Request} {s : State} {a : Answer} (h : CommandEffect r s a.state) :
    CommandEffect r s (Machine.withClaim r s a).state := by
  unfold Machine.withClaim
  split
  · exact h
  · exact .nothing

theorem CommandEffect.withForm {r : Request} {s : State} {a : Answer} {payload : List Byte} {n : Nat}
    (h : CommandEffect r s a.state) : CommandEffect r s (Machine.withForm payload n s a).state := by
  unfold Machine.withForm
  split
  · exact h
  · exact .nothing

/-! ## The commands -/

theorem identify_effect (r : Request) (pl : List Byte) (s : State) : CommandEffect r s (identifyCommand r pl s).state :=
  .withForm .nothing

theorem readStatus_effect (r : Request) (pl : List Byte) (s : State) : CommandEffect r s (readStatusCommand r pl s).state :=
  .withForm .nothing

theorem claim_effect (r : Request) (pl : List Byte) (s : State) : CommandEffect r s (claimCommand r pl s).state := by
  refine .withForm ?_
  split
  · exact .nothing
  · split
    · exact .claim _ (.inr ⟨_, rfl⟩)
    · split
      · exact .claim _ (.inr ⟨_, rfl⟩)
      · exact .nothing

theorem release_effect (r : Request) (pl : List Byte) (s : State) : CommandEffect r s (releaseCommand r pl s).state := by
  refine .withForm ?_
  split
  · exact .claim _ (.inl rfl)
  · exact .nothing

theorem setAddress_effect (r : Request) (pl : List Byte) (s : State) :
    CommandEffect r s (setAddressCommand r pl s).state := by
  refine .withClaim (.withForm ?_)
  split
  · next h => exact .address _ h
  · exact .nothing

theorem setPort_effect (r : Request) (pl : List Byte) (s : State) : CommandEffect r s (setPortCommand r pl s).state := by
  refine .withClaim (.withForm ?_)
  split
  · split
    · next h => exact .setPort _ _ _ h
    · exact .nothing
  · exact .nothing

theorem readPort_effect (r : Request) (pl : List Byte) (s : State) : CommandEffect r s (readPortCommand r pl s).state := by
  refine .withForm ?_
  split
  · exact .nothing
  · simp only
    split <;> exact .nothing

theorem readPortClear_effect (r : Request) (pl : List Byte) (s : State) :
    CommandEffect r s (readPortClearCommand r pl s).state := by
  refine .withClaim (.withForm ?_)
  split
  · exact .nothing
  · simp only
    split
    · exact .clearCounters _
    · exact .clearCounters _
    · exact .nothing

theorem writeBankHead_effect (r : Request) (pl : List Byte) (s : State) :
    CommandEffect r s (writeBankHeadCommand r pl s).state := by
  refine .withClaim (.withForm ?_)
  split
  · exact .nothing
  · split
    · exact .nothing
    · exact .header _

theorem writeRule_effect (r : Request) (pl : List Byte) (s : State) : CommandEffect r s (writeRuleCommand r pl s).state := by
  refine .withClaim ?_
  split
  · split
    · exact .nothing
    · split
      · next h =>
        split
        · exact .nothing
        · next rule hrule =>
          rw [Bool.and_eq_true] at h
          exact .writeRule _ _ _ (of_decide_eq_true h.1) hrule
      · exact .nothing
  · exact .nothing

theorem clearRule_effect (r : Request) (pl : List Byte) (s : State) : CommandEffect r s (clearRuleCommand r pl s).state := by
  refine .withClaim (.withForm ?_)
  split
  · exact .nothing
  · split
    · exact .clearRules
    · split
      · exact .clearRule _
      · exact .nothing

theorem readRule_effect (r : Request) (pl : List Byte) (s : State) : CommandEffect r s (readRuleCommand r pl s).state := by
  refine .withForm ?_
  split
  · exact .nothing
  · split
    · split <;> exact .nothing
    · exact .nothing

theorem copyBank_effect (r : Request) (pl : List Byte) (s : State) : CommandEffect r s (copyBankCommand r pl s).state := by
  refine .withClaim (.withForm ?_)
  split
  · exact .nothing
  · next h => exact .copy (by simpa using h)

theorem switchBank_effect (r : Request) (pl : List Byte) (s : State) :
    CommandEffect r s (switchBankCommand r pl s).state := by
  refine .withClaim (.withForm ?_)
  split
  · exact .nothing
  · next h =>
    split
    · exact .nothing
    · exact .switch (by simpa using h)

theorem writeStation_effect (r : Request) (pl : List Byte) (s : State) :
    CommandEffect r s (writeStationCommand r pl s).state := by
  refine .withClaim (.withForm ?_)
  split
  · exact .nothing
  · split
    · simp only
      split
      · exact .nothing
      · next h => exact .writeStation _ _ (fun h0 => by simpa [h0] using h)
    · exact .nothing

theorem deleteStation_effect (r : Request) (pl : List Byte) (s : State) :
    CommandEffect r s (deleteStationCommand r pl s).state := by
  refine .withClaim (.withForm ?_)
  split
  · split
    · exact .nothing
    · exact .deleteStation _
  · exact .nothing

theorem flushStations_effect (r : Request) (pl : List Byte) (s : State) :
    CommandEffect r s (flushStationsCommand r pl s).state := by
  refine .withClaim (.withForm ?_)
  split
  · exact .flush
  · split
    · exact .nothing
    · exact .flushPort _

theorem readStationAddress_effect (r : Request) (pl : List Byte) (s : State) :
    CommandEffect r s (readStationAddressCommand r pl s).state := by
  refine .withForm ?_
  split
  · split <;> exact .nothing
  · exact .nothing

theorem readStationIndex_effect (r : Request) (pl : List Byte) (s : State) :
    CommandEffect r s (readStationIndexCommand r pl s).state := by
  refine .withForm ?_
  split <;> exact .nothing

theorem setAging_effect (r : Request) (pl : List Byte) (s : State) : CommandEffect r s (setAgingCommand r pl s).state := by
  refine .withClaim (.withForm ?_)
  split
  · exact .aging _ _
  · exact .nothing

theorem setMeter_effect (r : Request) (pl : List Byte) (s : State) : CommandEffect r s (setMeterCommand r pl s).state := by
  refine .withClaim (.withForm ?_)
  split
  · next hn =>
    split
    · exact .nothing
    · next m hm => exact .setMeter _ _ _ (of_decide_eq_true hn) hm
  · exact .nothing

theorem rearmMeter_effect (r : Request) (pl : List Byte) (s : State) :
    CommandEffect r s (rearmMeterCommand r pl s).state := by
  refine .withClaim (.withForm ?_)
  split
  · next h =>
    rw [Bool.and_eq_true] at h
    exact .rearm _ (of_decide_eq_true h.1) (of_decide_eq_true h.2)
  · exact .nothing

theorem readMeter_effect (r : Request) (pl : List Byte) (s : State) : CommandEffect r s (readMeterCommand r pl s).state := by
  refine .withForm ?_
  split <;> exact .nothing

theorem readMeterClear_effect (r : Request) (pl : List Byte) (s : State) :
    CommandEffect r s (readMeterClearCommand r pl s).state := by
  refine .withClaim (.withForm ?_)
  split
  · next h => exact .clearMeter _ (of_decide_eq_true h)
  · exact .nothing

theorem setSync_effect (r : Request) (pl : List Byte) (s : State) : CommandEffect r s (setSyncCommand r pl s).state := by
  refine .withClaim (.withForm ?_)
  split
  · exact .nothing
  · next h => exact .setSync _ h

theorem setNotice_effect (r : Request) (pl : List Byte) (s : State) : CommandEffect r s (setNoticeCommand r pl s).state := by
  refine .withClaim (.withForm ?_)
  split
  · exact .nothing
  · split
    · exact .setNotice _ _ _ _
    · exact .nothing

theorem noticeAck_effect (r : Request) (pl : List Byte) (s : State) : CommandEffect r s (noticeAckCommand r pl s).state := by
  unfold noticeAckCommand
  simp only
  split
  · exact .nothing
  · refine .withForm ?_
    split
    · exact .nothing
    · split
      · exact .nothing
      · exact .ack _

theorem restartTraffic_effect (r : Request) (pl : List Byte) (s : State) :
    CommandEffect r s (restartTrafficCommand r pl s).state := by
  refine .withClaim (.withForm ?_)
  split
  · exact .traffic
  · exact .nothing

/-- RESTART FULL is refused, or makes the device RESTARTING. -/
theorem restartFull_effect (r : Request) (pl : List Byte) (s : State) :
    (restartFullCommand r pl s).status ≠ .ok ∧ (restartFullCommand r pl s).state = s ∨
      (restartFullCommand r pl s).status = .ok ∧
        (restartFullCommand r pl s).state = { s with device := { s.device with state := .restarting } } := by
  unfold restartFullCommand Machine.withClaim Machine.withForm
  split
  · split
    · split
      · exact .inr ⟨rfl, rfl⟩
      · exact .inl ⟨nofun, rfl⟩
    · exact .inl ⟨nofun, rfl⟩
  · exact .inl ⟨nofun, rfl⟩

/-! ## The events -/

/-- A service event does nothing, clears its flags, or serves the candidates in rank order (R187). -/
theorem takeService_cases (s : State) :
    s.takeService = s ∨
    s.takeService = { s with notices := { s.notices with causeDue := false, offerDue := false } } ∨
    s.takeService =
      ({ s with notices := { s.notices with causeDue := false, offerDue := false } } : State).serve allSources := by
  unfold State.takeService
  split
  · simp only
    split
    · exact .inr (.inr rfl)
    · exact .inr (.inl rfl)
  · exact .inl rfl

/-- What an event that answers a next state can make of the part `s`. -/
inductive EventEffect (s : State) : State → Prop
  | nothing : EventEffect s s
  | request (r : Request) (f : Frame) (a : Answer) (he : Executing s r f) (ha : CommandEffect r s a.state) :
      EventEffect s (completeRequest r f false a)
  | restartFull (r : Request) (f : Frame) (a : Answer) (he : Executing s r f)
      (ha : a.state = { s with device := { s.device with state := .restarting } }) :
      EventEffect s (completeRequest r f true a)
  | resetLow (h : s.device.resetHeld = false) :
      EventEffect s { s.startReset 0 with device := { (s.startReset 0).device with resetHeld := true } }
  | release (straps : BitVec 6) (h : s.device.resetHeld = true) :
      EventEffect s
        { s.beginStarting with
          agent := { s.beginStarting.agent with address := Config.addressBase + straps.setWidth 16 }
          ports := s.beginStarting.ports.map (fun u => { u with egress := { u.egress with line := .idleFill } }) }
  | sweep (h : s.device.resetHeld = false) (hs : s.device.sweeping = true) :
      EventEffect s { s.sweep with device := { s.sweep.device with state := .running, sweeping := false } }
  | restartPoint (h : s.device.resetHeld = false) (hd : s.device.restartDue = true) :
      EventEffect s (s.startReset (satNext 255 s.agent.restartCount)).beginStarting
  | startMark (p : Port) (h : s.device.resetHeld = false) (hp : s.inService p = true) :
      EventEffect s (s.receiveEnding p .startMark)
  | endOfFrame (p : Port) (data : List Byte) (ending : Ending) (h : s.device.resetHeld = false)
      (hp : s.inService p = true) :
      EventEffect s ((s.setReceiver p ((s.port p).receiver.feed data)).receiveEnding p ending)
  | abandoned (p : Port) (n : Nat) (rest : List Nat) (h : s.device.resetHeld = false)
      (hw : s.store.awaiting.get p = n :: rest) (hx : s.slot n = none) : EventEffect s (s.setAwaiting p rest)
  | classified (p : Port) (n : Nat) (rest : List Nat) (x : Slot) (h : s.device.resetHeld = false)
      (hw : s.store.awaiting.get p = n :: rest) (hx : s.slot n = some x) :
      EventEffect s (((s.setAwaiting p rest).classify p n x.frame).releaseRef n)
  | transmitted (p : Port) (n : Nat) (h : s.device.resetHeld = false) (ht : (s.port p).egress.transmitter = some n) :
      EventEffect s (s.finishTransmission p n)
  | copied (h : s.device.resetHeld = false) (hc : s.rules.copying = true) : EventEffect s (finishCopy s)
  | claimExpired (c : Claim) (h : s.device.resetHeld = false) (hc : s.agent.claim = some c) :
      EventEffect s ((s.setClaim none).raise .claimExpired c.holder)
  | syncExpired (h : s.device.resetHeld = false) (hl : s.sync.locked = true) : EventEffect s (s.loseSync 0)
  | unblocked (p : Port) (h : s.device.resetHeld = false) (hb : (s.port p).state = .blocked) :
      EventEffect s
        (s.setPort p { s.port p with state := (s.port p).commanded.toState, blockTimer := none, receiver := .idle })
  | errorWindow (p : Port) (h : s.device.resetHeld = false) :
      EventEffect s (s.setPort p { s.port p with errorCount := 0, errorWindow := Config.windowMs })
  | moveWindow (h : s.device.resetHeld = false) :
      EventEffect s
        { s with stations := { s.stations with moveCount := 0, storm := false, moveWindow := Config.windowMs } }
  | agingTick (h : s.device.resetHeld = false) :
      EventEffect s
        { s with stations :=
            { s.stations with entries := s.stations.entries.filterMap ageEntry, agingClock := Config.windowMs } }
  | period (n : Nat) (hn : n < Config.meterCount) (h : s.device.resetHeld = false)
      (ht : (s.meter n).timer.isSome = true) : EventEffect s (s.setMeter n (s.meter n).onExpiry)
  | resendDue (r : Source) (x : NoticeRecord) (h : s.device.resetHeld = false) (hx : (s.source r).record = some x) :
      EventEffect s (s.setSource r { s.source r with timer := none, resendDue := true }).causeService
  | givenUp (r : Source) (x : NoticeRecord) (h : s.device.resetHeld = false) (hx : (s.source r).record = some x) :
      EventEffect s
        ({ s.setSource r (s.source r).settled with
            notices :=
              { (s.setSource r (s.source r).settled).notices with
                lost := (s.setSource r (s.source r).settled).notices.lost + 1 } } : State).causeService
  | served (h : s.device.resetHeld = false) : EventEffect s s.takeService
  | millisecond (h : s.device.resetHeld = false) : EventEffect s s.millisecond

theorem runRequest_effect {s : State} {mine : List Byte → Bool} {judge : Request → List Byte → State → Answer}
    (hj : ∀ r pl, CommandEffect r s (judge r pl s).state) : EventEffect s (runRequest mine judge s) := by
  unfold runRequest
  split
  · exact .nothing
  · next r f he =>
    split
    · exact .request r f _ he (hj r f.payload)
    · exact .nothing

theorem runRestartFull_effect (s : State) : EventEffect s (runRestartFull s) := by
  unfold runRestartFull
  split
  · exact .nothing
  · next r f he =>
    split
    · rcases restartFull_effect r f.payload s with ⟨h1, h2⟩ | ⟨h1, h2⟩
      · simp only [decide_eq_false h1]
        exact .request r f _ he (by rw [h2]; exact .nothing)
      · simp only [h1, decide_true]
        exact .restartFull r f _ he h2
    · exact .nothing

/-- Every event that answers a next state leaves the part in one of the ways of `EventEffect`. -/
theorem exec_effect {i : Instr} {s t : State} (h : exec i s = .next t) : EventEffect s t := by
  cases i <;> simp only [exec] at h
  case resetNLow =>
    cases h; split
    · exact .nothing
    · next h => exact .resetLow (by simpa using h)
  case resetNRelease straps =>
    cases h; split
    · next h => exact .release straps h
    · exact .nothing
  case sweepComplete =>
    cases h; split
    · next h => exact .sweep h.1 h.2
    · exact .nothing
  case restartPoint =>
    cases h; split
    · next h => exact .restartPoint h.1 h.2
    · exact .nothing
  case endOfFrame p data ending =>
    cases h; split
    · next h => exact .endOfFrame p data ending h.1 h.2
    · exact .nothing
  case startMark p =>
    cases h; split
    · next h => exact .startMark p h.1 h.2
    · exact .nothing
  case classification p =>
    cases h; split
    · next h =>
      split
      · exact .nothing
      · next n rest hw =>
        simp only
        split
        · next hx => exact .abandoned p n rest h hw hx
        · next x hx => exact .classified p n rest x h hw hx
    · exact .nothing
  case transmitComplete p =>
    cases h; split
    · next h =>
      split
      · exact .nothing
      · next n ht => exact .transmitted p n h ht
    · exact .nothing
  case copyComplete =>
    cases h; split
    · next h => exact .copied h.1 h.2
    · exact .nothing
  case claimExpiry =>
    cases h; split
    · next h =>
      split
      · exact .nothing
      · next c hc => exact .claimExpired c h hc
    · exact .nothing
  case syncTimerExpiry =>
    cases h; split
    · next h => exact .syncExpired h.1 h.2
    · exact .nothing
  case blockTimerExpiry p =>
    cases h; split
    · next h => exact .unblocked p h.1 h.2
    · exact .nothing
  case errorWindowExpiry p =>
    cases h; split
    · next h => exact .errorWindow p h
    · exact .nothing
  case moveWindowExpiry =>
    cases h; split
    · next h => exact .moveWindow h
    · exact .nothing
  case agingTick =>
    cases h; split
    · next h => exact .agingTick h
    · exact .nothing
  case periodExpiry n =>
    unfold execPeriodExpiry at h
    split at h
    · next hn =>
      cases h; split
      · next h => exact .period n (of_decide_eq_true hn) h.1 h.2
      · exact .nothing
    · cases h
  case resendTimerExpiry r =>
    cases h; split
    · next h =>
      split
      · exact .nothing
      · next x hx =>
        split
        · exact .resendDue r x h.1 hx
        · exact .givenUp r x h.1 hx
    · exact .nothing
  case noticeService =>
    cases h; split
    · next h => exact .served h
    · exact .nothing
  case restartFull => cases h; exact runRestartFull_effect s
  case identify => cases h; exact runRequest_effect (identify_effect · · s)
  case readStatus => cases h; exact runRequest_effect (readStatus_effect · · s)
  case claim => cases h; exact runRequest_effect (claim_effect · · s)
  case release => cases h; exact runRequest_effect (release_effect · · s)
  case setAddress => cases h; exact runRequest_effect (setAddress_effect · · s)
  case setPort => cases h; exact runRequest_effect (setPort_effect · · s)
  case readPort => cases h; exact runRequest_effect (readPort_effect · · s)
  case readPortClear => cases h; exact runRequest_effect (readPortClear_effect · · s)
  case writeBankHead => cases h; exact runRequest_effect (writeBankHead_effect · · s)
  case writeRule => cases h; exact runRequest_effect (writeRule_effect · · s)
  case clearRule => cases h; exact runRequest_effect (clearRule_effect · · s)
  case readRule => cases h; exact runRequest_effect (readRule_effect · · s)
  case copyBank => cases h; exact runRequest_effect (copyBank_effect · · s)
  case switchBank => cases h; exact runRequest_effect (switchBank_effect · · s)
  case writeStation => cases h; exact runRequest_effect (writeStation_effect · · s)
  case deleteStation => cases h; exact runRequest_effect (deleteStation_effect · · s)
  case flushStations => cases h; exact runRequest_effect (flushStations_effect · · s)
  case readStationAddress => cases h; exact runRequest_effect (readStationAddress_effect · · s)
  case readStationIndex => cases h; exact runRequest_effect (readStationIndex_effect · · s)
  case setAging => cases h; exact runRequest_effect (setAging_effect · · s)
  case setMeter => cases h; exact runRequest_effect (setMeter_effect · · s)
  case rearmMeter => cases h; exact runRequest_effect (rearmMeter_effect · · s)
  case readMeter => cases h; exact runRequest_effect (readMeter_effect · · s)
  case readMeterClear => cases h; exact runRequest_effect (readMeterClear_effect · · s)
  case setSync => cases h; exact runRequest_effect (setSync_effect · · s)
  case setNotice => cases h; exact runRequest_effect (setNotice_effect · · s)
  case noticeAck => cases h; exact runRequest_effect (noticeAck_effect · · s)
  case restartTraffic => cases h; exact runRequest_effect (restartTraffic_effect · · s)
  case unknownCommand => cases h; exact runRequest_effect (fun _ _ => .nothing)

end Sys2Proof.Safety
end

