-- ==== Sys2Proof/Laws/Formats.lean ====
section
/-! SUPPORT. Each field of the layouts of R210, R212 and R213 is read back as it was written: the codes, the packed bytes
and the two-byte fields. -/

namespace Sys2Proof.Machine

open Sys2Proof.Safety

/-! ## Two-byte fields -/

/-- The two bytes of a field make the field again. -/
theorem wordOf_bytes (w : Word) : wordOf (w.extractLsb' 8 8) (w.extractLsb' 0 8) = w := by
  unfold wordOf
  apply BitVec.eq_of_getLsbD_eq
  intro i hi
  simp only [BitVec.getLsbD_append, BitVec.getLsbD_extractLsb']
  by_cases h : i < 8
  · simp [h]
  · simp [h]
    rw [show 8 + (i - 8) = i by omega]
    simp
    omega

/-- The field that two bytes make has these two bytes. -/
theorem wordBytes_wordOf (a b : Byte) : wordBytes (wordOf a b) = [a, b] := by
  unfold wordBytes wordOf
  congr 1
  · apply BitVec.eq_of_getLsbD_eq
    intro i hi
    simp only [BitVec.getLsbD_append, BitVec.getLsbD_extractLsb']
    simp [hi]
  · congr 1
    apply BitVec.eq_of_getLsbD_eq
    intro i hi
    simp only [BitVec.getLsbD_append, BitVec.getLsbD_extractLsb']
    simp [hi]

/-! ## Codes -/

theorem kindOf_kindCode (k : Kind) : kindOf (kindCode k) = some k := by cases k <;> rfl

theorem kindCode_of {c : BitVec 3} {k : Kind} (h : kindOf c = some k) : kindCode k = c := by
  revert k c
  decide

theorem selectorOf_selectorCode (x : Selector) : selectorOf (selectorCode x) = some x := by cases x <;> rfl

theorem selectorCode_of {c : BitVec 4} {x : Selector} (h : selectorOf c = some x) : selectorCode x = c := by
  revert x c
  decide

theorem verdictOf_verdictCode (x : Verdict) : verdictOf (verdictCode x) = some x := by cases x <;> rfl

theorem verdictCode_of {c : BitVec 2} {x : Verdict} (h : verdictOf c = some x) : verdictCode x = c := by
  revert x c
  decide

theorem tagOpOf_tagOpCode (x : TagOp) : tagOpOf (tagOpCode x) = some x := by cases x <;> rfl

theorem tagOpCode_of {c : BitVec 2} {x : TagOp} (h : tagOpOf c = some x) : tagOpCode x = c := by
  revert x c
  decide

theorem matchModeOf_matchModeCode (x : MatchMode) : matchModeOf (matchModeCode x) = some x := by cases x <;> rfl

theorem matchModeCode_of {c : BitVec 2} {x : MatchMode} (h : matchModeOf c = some x) : matchModeCode x = c := by
  revert x c
  decide

theorem portOf_portNumber (p : Port) : portOf (portNumber p) = some p := by cases p <;> rfl

/-! ## Packed bytes of a frame (R210) -/

theorem kindByte_fields (f : Frame) :
    (kindByte f).extractLsb' 5 3 = kindCode f.kind ∧ (kindByte f).extractLsb' 3 2 = f.cls ∧
      (kindByte f).getLsbD 2 = f.tagged ∧ (kindByte f).extractLsb' 0 2 = 0 := by
  unfold kindByte
  generalize f.tagged = t
  generalize f.cls = c
  generalize kindCode f.kind = k
  revert k c t
  decide

theorem hopsByte_fields :
    ∀ h : BitVec 4, (h.setWidth 8).extractLsb' 4 4 = 0 ∧ (h.setWidth 8).setWidth 4 = h := by decide

theorem tagWord_high (v : BitVec 12) : ((v.setWidth 16).extractLsb' 8 8).extractLsb' 4 4 = 0 := by
  apply BitVec.eq_of_getLsbD_eq
  intro i hi
  simp only [BitVec.getLsbD_extractLsb', BitVec.getLsbD_setWidth]
  simp [hi]
  intro h1 h2
  apply BitVec.getLsbD_of_ge
  omega

theorem tagWord_low (v : BitVec 12) : (v.setWidth 16).setWidth 12 = v := by
  apply BitVec.eq_of_getLsbD_eq
  intro i hi
  simp only [BitVec.getLsbD_setWidth]
  simp [hi]
  omega

/-- A recomputed check is the check of the content (R210). -/
theorem recheck_check (g : Frame) : g.recheck.check = crc g.recheck.body := by
  have h : g.recheck.body = g.body := rfl
  rw [h]
  unfold Frame.recheck
  generalize crc g.body = c
  rfl

/-! ## Terms and actions of a rule record (R213) -/

theorem termByte_fields (b : Bool) (c : BitVec 4) :
    (BitVec.ofBool b ++ (0 : BitVec 3) ++ c).extractLsb' 0 4 = c ∧
      (BitVec.ofBool b ++ (0 : BitVec 3) ++ c).getLsbD 7 = b ∧
      (BitVec.ofBool b ++ (0 : BitVec 3) ++ c).extractLsb' 4 3 = 0 := by
  revert b c
  decide

theorem senseOf_senseBit (x : Sense) : senseOf (senseBit x) = x := by cases x <;> rfl

theorem actionByte_fields (a b c d : Bool) (t v : BitVec 2) :
    let x := BitVec.ofBool a ++ BitVec.ofBool b ++ BitVec.ofBool c ++ BitVec.ofBool d ++ t ++ v
    x.extractLsb' 0 2 = v ∧ x.extractLsb' 2 2 = t ∧ x.getLsbD 4 = d ∧ x.getLsbD 5 = c ∧ x.getLsbD 6 = b ∧
      x.getLsbD 7 = a := by
  revert a b c d t v
  decide

theorem nibbles_fields (a b : BitVec 4) : (a ++ b).extractLsb' 0 4 = b ∧ (a ++ b).extractLsb' 4 4 = a := by
  revert a b
  decide

theorem limitByte_fields (a : BitVec 5) :
    ((0 : BitVec 3) ++ a).extractLsb' 0 5 = a ∧ ((0 : BitVec 3) ++ a).extractLsb' 5 3 = 0 := by
  revert a
  decide

/-- A legal term is read back from its six bytes, whatever follows them. -/
theorem readTerm_termBytes (k : Nat) {t : Term} (h : TermOk t) (rest : List Byte) :
    readTerm k (termBytes t ++ rest) = .ok t := by
  unfold termBytes readTerm
  obtain ⟨h1, h2, -⟩ := termByte_fields (senseBit t.sense) (selectorCode t.selector)
  simp only [wordBytes, List.cons_append, List.nil_append, byteAt, wordAt, List.getD_cons_zero, List.getD_cons_succ,
    h1, h2, selectorOf_selectorCode, wordOf_bytes, senseOf_senseBit]
  rw [if_neg]
  rintro ⟨hp, ho⟩
  obtain ⟨g1, g2⟩ := h hp
  omega

/-- A legal action is read back from its six bytes, whatever follows them. -/
theorem readAction_actionBytes (k : Nat) {a : Action} (h : ActionOk a) (rest : List Byte) :
    readAction k (actionBytes a ++ rest) = .ok a := by
  unfold actionBytes readAction
  obtain ⟨h1, h2, h3, h4, h5, h6⟩ :=
    actionByte_fields a.meterPresent a.classPresent a.notice a.copy (tagOpCode a.tagOp) (verdictCode a.verdict)
  obtain ⟨g1, g2, g3, g4⟩ := h
  simp only [wordBytes, List.cons_append, List.nil_append, byteAt, wordAt, List.getD_cons_zero, List.getD_cons_succ,
    h1, h2, h3, h4, h5, h6, verdictOf_verdictCode, tagOpOf_tagOpCode, wordOf_bytes, nibbles_fields, limitByte_fields]
  rw [if_neg (fun hc => by have := g1 hc.1; omega), if_neg (fun hc => by have := g2 hc.1; omega),
    if_neg (fun hc => by have := g3 hc.1; omega), if_neg (fun hc => by have := g4 hc.1; omega)]

end Sys2Proof.Machine
end

