-- ==== Sys2Proof/Laws/Keeps.lean ====
section
/-! SUPPORT. How to prove that a property of State is kept: the properties of the primitive operations that it needs, and
the shared operations that then keep it. An invariant names what its own block does and gets the rest from here. -/

namespace Sys2Proof.Safety

open Sys2Proof.Machine

variable {P : State → Prop} {s t : State} {p : Port} {n : Nat}

/-! ## Egresses -/

/-- The primitive operations of an egress keep `P`. -/
structure KeptByEgress (P : State → Prop) : Prop where
  egress : ∀ s p e, P s → P (s.setEgress p e)
  count : ∀ s p c, P s → P (s.count p c)
  report : ∀ s n, P s → P (s.reportEnd n)
  release : ∀ s n, P s → P (s.releaseRef n)
  addRef : ∀ s n, P s → P (s.addRef n)

theorem KeptByEgress.discardStale (h : KeptByEgress P) {c : BitVec 2} {e : Egress} (hs : P s) :
    P (s.discardStale p c n e) :=
  h.release _ _ (h.report _ _ (h.count _ _ _ (h.egress _ _ _ hs)))

theorem KeptByEgress.selectLoop (h : KeptByEgress P) (fuel : Nat) (hs : P s) : P (s.selectLoop fuel p) := by
  induction fuel generalizing s with
  | zero => exact hs
  | succ fuel ih =>
    unfold State.selectLoop
    split
    · exact hs
    · split
      · exact ih (h.discardStale hs)
      · exact h.egress _ _ _ hs

theorem KeptByEgress.select (h : KeptByEgress P) (hs : P s) : P (s.select p) := by
  unfold State.select
  split
  · exact h.selectLoop _ hs
  · exact hs

theorem KeptByEgress.enqueue (h : KeptByEgress P) {c : BitVec 2} (hs : P s) : P (s.enqueue p c n) :=
  h.select (h.addRef _ _ (h.egress _ _ _ hs))

theorem KeptByEgress.place (h : KeptByEgress P) {c : BitVec 2} (hs : P s) : P (s.place p c n) := by
  unfold State.place
  split
  · exact h.count _ _ _ hs
  · exact h.enqueue hs

theorem KeptByEgress.placeAll (h : KeptByEgress P) {c : BitVec 2} (l : List Port) (hs : P s) :
    P (State.placeAll c n l s) := by
  induction l generalizing s with
  | nil => exact hs
  | cons q r ih => exact ih (h.place hs)

theorem KeptByEgress.placeOwn (h : KeptByEgress P)
    (hf : ∀ s n f, s.lowestFreeSlot = some n → P s → P (s.fillSlot n f .agent 0)) {f : Frame} (hs : P s) :
    P (s.placeOwn p f).2 := by
  rcases placeOwn_cases s p f with ⟨_, ho⟩ | ⟨n, hn, hi, ho⟩ | ⟨n, hn, hi, hq, ho⟩ | ⟨n, hn, hi, hq, ho⟩ <;> rw [ho]
  · exact hs
  · exact hs
  · exact h.count _ _ _ hs
  · exact h.enqueue (hf _ _ _ hn hs)

theorem KeptByEgress.releaseAll (h : KeptByEgress P) (l : List Nat) (hs : P s) : P (State.releaseAll l s) := by
  induction l generalizing s with
  | nil => exact hs
  | cons n r ih => exact ih (h.release _ _ (h.report _ _ hs))

theorem KeptByEgress.stopEgress (h : KeptByEgress P) (hs : P s) : P (s.stopEgress p) := by
  unfold State.stopEgress
  apply h.releaseAll
  apply h.egress
  unfold State.abortTransmission
  simp only
  split
  · exact hs
  · exact h.release _ _ (h.report _ _ (h.count _ _ _ (h.egress _ _ _ hs)))

theorem KeptByEgress.stopAll (h : KeptByEgress P) (hs : P s) : P s.stopAll :=
  h.stopEgress (h.stopEgress (h.stopEgress (h.stopEgress (h.stopEgress hs))))

theorem KeptByEgress.endTransmission (h : KeptByEgress P) (hs : P s) : P (s.endTransmission p n) :=
  h.release _ _ (h.report _ _ (h.egress _ _ _ (h.count _ _ _ hs)))

/-! ## What the blocks have in common -/

/-- `P` is kept by an egress, by a slot that the part fills or rewrites itself, and by any change of the Agent, the Notice
Unit, device control and the frames that await classification. -/
structure KeptInCommon (P : State → Prop) : Prop extends KeptByEgress P where
  fill : ∀ s n f, s.lowestFreeSlot = some n → P s → P (s.fillSlot n f .agent 0)
  agent : ∀ s a, P s → P { s with agent := a }
  notices : ∀ s a, P s → P { s with notices := a }
  device : ∀ s a, P s → P { s with device := a }
  choices : ∀ s a, P s → P { s with choices := a }
  rewrite : ∀ s n f, P s → P (s.rewriteSlot n f)
  awaiting : ∀ s p l, P s → P (s.setAwaiting p l)

theorem KeptInCommon.own (h : KeptInCommon P) {f : Frame} (hs : P s) : P (s.placeOwn p f).2 := h.toKeptByEgress.placeOwn h.fill hs

theorem KeptInCommon.settleReady (h : KeptInCommon P) (hs : P s) : P s.settleReady := by
  unfold State.settleReady
  split
  · exact hs
  · exact h.notices _ _ hs

theorem KeptInCommon.takeRequest (h : KeptInCommon P) (hs : P s) : P s.takeRequest := by
  unfold State.takeRequest
  split
  · split
    · exact hs
    · exact h.agent _ _ hs
  · exact hs

/-- Steps 4 to 6 of R145 keep `P`. -/
theorem KeptInCommon.completeRequest (h : KeptInCommon P) {r : Request} {f : Frame} {restart : Bool} {a : Answer}
    (hs : P a.state) : P (completeRequest r f restart a) := by
  unfold Machine.completeRequest endExecution cacheReply
  apply h.takeRequest
  apply h.agent
  apply h.release
  apply h.agent
  have h0 : P (countReplyLost ((restartClaimTimer r.source a.state).placeOwn r.port (buildReply r f a)).1
      ((restartClaimTimer r.source a.state).placeOwn r.port (buildReply r f a)).2) := by
    rw [countReplyLost_eq]
    apply h.agent
    apply h.own
    rw [restartClaimTimer_eq]
    exact h.agent _ _ hs
  split
  · unfold markRestartReply
    split <;> exact h.device _ _ h0
  · exact h0

theorem KeptInCommon.sendOf (h : KeptInCommon P) {r : Source} (hs : P s) (e : sendOf s r = some t) : P t := by
  unfold Machine.sendOf at e
  split at e
  · split at e
    · cases e
      exact h.own (h.notices _ _ hs)
    · cases e
  · split at e
    · cases e
      exact h.own (h.notices _ _ (h.notices _ _ hs))
    · cases e

/-- A service event keeps `P` (R187). -/
theorem KeptInCommon.serve (h : KeptInCommon P) (l : List Source) (hs : P s) : P (s.serve l) := by
  induction l generalizing s with
  | nil => exact h.notices _ _ hs
  | cons r rest ih =>
    unfold State.serve
    split
    · exact ih hs
    · next u hu =>
      split
      · unfold State.deferService
        split
        · exact hs
        · exact h.notices _ _ hs
      · exact ih (h.sendOf hs hu)

theorem KeptInCommon.takeService (h : KeptInCommon P) (hs : P s) : P s.takeService := by
  rcases takeService_cases s with e | e | e <;> rw [e]
  · exact hs
  · exact h.notices _ _ hs
  · exact h.serve _ (h.notices _ _ hs)

/-- The completion of a transmission keeps `P` in either order of R107. -/
theorem KeptInCommon.finishTransmission (h : KeptInCommon P) (hs : P s) : P (s.finishTransmission p n) := by
  have he : P (s.endTransmission p n) := h.toKeptByEgress.endTransmission hs
  rcases finishTransmission_cases s p n with e | e | e <;> rw [e]
  · exact h.toKeptByEgress.select he
  · exact h.toKeptByEgress.select (h.choices _ _ he)
  · exact h.toKeptByEgress.select (h.takeService (h.choices _ _ he))

/-! ## Port states -/

/-- The ports' states and commanded modes are the same. -/
def SameStates (s t : State) : Prop :=
  ∀ q, (t.port q).state = (s.port q).state ∧ (t.port q).commanded = (s.port q).commanded

theorem SameStates.refl (s : State) : SameStates s s := fun _ => ⟨rfl, rfl⟩

theorem SameStates.trans {u : State} (h : SameStates s t) (g : SameStates t u) : SameStates s u :=
  fun q => ⟨(g q).1.trans (h q).1, (g q).2.trans (h q).2⟩

theorem SameStates.isActive (h : SameStates s t) (q : Port) : t.isActive q = s.isActive q := by
  unfold State.isActive
  rw [(h q).1]

theorem SameStates.inService (h : SameStates s t) (q : Port) : t.inService q = s.inService q := by
  unfold State.inService
  rw [(h q).1]

theorem SameStates.of_ports (h : t.ports = s.ports) : SameStates s t := fun q => by
  unfold State.port
  rw [h]
  exact ⟨rfl, rfl⟩

theorem SameStates.setPort {u : PortUnit} (h1 : u.state = (s.port p).state) (h2 : u.commanded = (s.port p).commanded) :
    SameStates s (s.setPort p u) := fun q => by
  unfold State.setPort State.port
  simp only [PerPort.get_set]
  split
  · next h =>
    subst h
    exact ⟨h1, h2⟩
  · exact ⟨rfl, rfl⟩

theorem SameStates.common (s0 : State) : KeptInCommon (SameStates s0) where
  egress := fun _ _ _ h => h.trans (SameStates.setPort rfl rfl)
  count := fun _ _ _ h => h.trans (SameStates.setPort rfl rfl)
  report := fun s n h => by
    unfold State.reportEnd
    split <;> exact h
  release := fun s n h => by
    rcases releaseRef_cases s n with ⟨_, e⟩ | ⟨x, hx, _, e⟩ | ⟨x, hx, _, e⟩ <;> rw [e] <;> exact h
  addRef := fun s n h => by
    unfold State.addRef
    split <;> exact h
  fill := fun _ _ _ _ h => h
  agent := fun _ _ h => h
  notices := fun _ _ h => h
  device := fun _ _ h => h
  choices := fun _ _ h => h
  rewrite := fun s n f h => by
    unfold State.rewriteSlot
    split <;> exact h
  awaiting := fun _ _ _ h => h

theorem inService_of_isActive (h : s.isActive p = true) : s.inService p = true := by
  unfold State.isActive at h
  unfold State.inService
  rw [h]
  rfl

/-! ## The classifier -/

/-- `P` is kept by what the classification of a frame in slot `n` does. A frame is placed on ports in service only. -/
structure KeptByClassifier (n : Nat) (P : State → Prop) : Prop where
  place : ∀ s q c, s.inService q = true → P s → P (s.place q c n)
  own : ∀ s p f, P s → P (s.placeOwn p f).2
  count : ∀ s p c, P s → P (s.count p c)
  agent : ∀ s (a : Agent), a.queue = s.agent.queue → a.executing = s.agent.executing → a.cache = s.agent.cache →
    a.address = s.agent.address → P s → P { s with agent := a }
  capture : ∀ s source id p, s.agent.cached source id = none → s.agent.duplicate source id = false →
    s.agent.queue.length < Config.requestDepth → P s → P (s.capture ⟨source, id, p, n⟩)
  rewrite : ∀ s f, P s → P (s.rewriteSlot n f)
  raise : ∀ s r d, P s → P (s.raise r d)
  trunkSync : ∀ s, s.isActive .t = true → P s → P s.trunkSync
  learn : ∀ s a p, P s → P (s.learn a p).2
  countHit : ∀ s d, P s → P (countHit d s)
  consult : ∀ s k c, P s → P (s.consult k c).2

theorem consult_ports (s : State) (k c : Nat) : (s.consult k c).2.ports = s.ports := by
  unfold State.consult
  simp only
  split
  · rfl
  · split
    · rfl
    · simp only
      split <;> rfl

/-- A meter narrows the targets, and changes no port's state. -/
theorem meterStep_ports (s : State) (p : Port) (a : Action) (ports : List Port) (f : Frame) :
    (∀ q ∈ (meterStep s p a ports f).ports, q ∈ ports) ∧ SameStates s (meterStep s p a ports f).state := by
  unfold meterStep
  split
  · simp only
    have h := SameStates.of_ports (consult_ports s a.meter.toNat (frameCost f))
    split
    · exact ⟨fun _ hq => hq, h⟩
    · exact ⟨fun _ hq => hq, h⟩
    · exact ⟨(fun _ hq => nomatch hq), (SameStates.common s).count _ _ _ h⟩
    · exact ⟨fun _ hq => hq, h⟩
  · exact ⟨fun _ hq => hq, .refl s⟩

theorem soleTarget_active (s : State) (p q : Port) : ∀ x ∈ (soleTarget s p q).ports, s.isActive x = true := by
  intro x hx
  unfold soleTarget at hx
  split at hx
  · cases hx
  · split at hx
    · next h =>
      simp only [List.mem_singleton] at hx
      subst hx
      exact h
    · cases hx

theorem floodTo_active (s : State) (p : Port) : ∀ x ∈ (floodTo s p).ports, s.isActive x = true := by
  intro x hx
  unfold floodTo floodTargets at hx
  simp only at hx
  have h := (List.mem_filter.mp hx).2
  rw [Bool.and_eq_true] at h
  exact h.2

/-- Every target of a verdict is ACTIVE (R42, R43). -/
theorem verdictTargets_active (s : State) (p : Port) (dest : Word) (a : Action) :
    ∀ x ∈ (verdictTargets s p dest a).ports, s.isActive x = true := by
  intro x hx
  have hr : ∀ x ∈ (resolve s p dest).ports, s.isActive x = true := by
    intro x hx
    unfold resolve at hx
    split at hx
    · split at hx
      · exact soleTarget_active _ _ _ _ hx
      · exact floodTo_active _ _ _ hx
    · exact floodTo_active _ _ _ hx
  unfold verdictTargets at hx
  split at hx
  · cases hx
  · split at hx
    · cases hx
    · exact soleTarget_active _ _ _ _ hx
  · unfold narrow at hx
    split at hx
    · exact hr _ hx
    · exact hr _ (List.mem_filter.mp hx).1

theorem copyTarget_active {d : Decision} {ports : List Port} {o : Port} (h : copyTarget s p d ports = some o) :
    s.isActive o = true := by
  unfold copyTarget at h
  split at h
  · split at h
    · cases h
    · split at h
      · next hc =>
        cases h
        exact hc.1
      · cases h
  · cases h

theorem noticeStep_ports (s : State) (d : Decision) : (noticeStep s d).ports = s.ports := by
  unfold noticeStep
  split
  · rfl
  · split <;> rfl

theorem KeptByClassifier.placeAll (h : KeptByClassifier n P) {c : BitVec 2} (l : List Port)
    (hl : ∀ q ∈ l, s.isActive q = true) (hs : P s) : P (State.placeAll c n l s) := by
  induction l generalizing s with
  | nil => exact hs
  | cons q r ih =>
    refine ih (fun x hx => ?_) (h.place _ _ _ (inService_of_isActive (hl q List.mem_cons_self)) hs)
    have hst : SameStates s (s.place q c n) := (SameStates.common s).place (.refl s)
    rw [hst.isActive]
    exact hl x (List.mem_cons_of_mem _ hx)

theorem KeptByClassifier.charge (h : KeptByClassifier n P) {c : Option Counter} (hs : P s) : P (s.charge p c) := by
  unfold State.charge
  split
  · exact hs
  · exact h.count _ _ _ hs

theorem KeptByClassifier.meterStep (h : KeptByClassifier n P) {a : Action} {ports : List Port} {f : Frame} (hs : P s) :
    P (meterStep s p a ports f).state := by
  unfold Machine.meterStep
  split
  · simp only
    have hc := h.consult s a.meter.toNat (frameCost f) hs
    split
    · exact hc
    · exact hc
    · exact h.count _ _ _ hc
    · exact hc
  · exact hs

theorem KeptByClassifier.forwardEvaluated (h : KeptByClassifier n P) {f : Frame} (hs : P s) :
    P (s.forwardEvaluated p n f) := by
  unfold State.forwardEvaluated
  simp only
  generalize evaluate p f s = d
  have h1 := h.countHit s d hs
  generalize Machine.countHit d s = s1 at *
  have ht := verdictTargets_active s1 p f.dest d.action
  generalize verdictTargets s1 p f.dest d.action = t at *
  have h2 : P (Machine.meterStep (s1.charge p t.charge) p d.action t.ports (Machine.rewrite d.action f)).state :=
    h.meterStep (h.charge h1)
  have hm := meterStep_ports (s1.charge p t.charge) p d.action t.ports (Machine.rewrite d.action f)
  have hc : SameStates s1 (s1.charge p t.charge) := by
    unfold State.charge
    split
    · exact .refl s1
    · exact (SameStates.common s1).count _ _ _ (.refl s1)
  generalize Machine.meterStep (s1.charge p t.charge) p d.action t.ports (Machine.rewrite d.action f) = m at *
  have e2 : SameStates s1 m.state := hc.trans hm.2
  have hcopy := fun o => copyTarget_active (s := m.state) (p := p) (d := d) (ports := m.ports) (o := o)
  generalize copyTarget m.state p d m.ports = copy at *
  have h3 : P ((noticeStep m.state d).rewriteSlot n m.frame) := by
    apply h.rewrite
    unfold noticeStep
    split
    · exact h2
    · split
      · exact h.raise _ _ _ h2
      · exact h2
  have e3 : SameStates m.state ((noticeStep m.state d).rewriteSlot n m.frame) :=
    (SameStates.common m.state).rewrite _ _ _ (.of_ports (noticeStep_ports _ _))
  generalize (noticeStep m.state d).rewriteSlot n m.frame = s2 at *
  have h4 : P (State.placeAll m.frame.cls n m.ports s2) := by
    refine h.placeAll _ (fun q hq => ?_) h3
    rw [e3.isActive, e2.isActive]
    exact ht q (hm.1 q hq)
  split
  · exact h4
  · next o =>
    refine h.place _ _ _ ?_ h4
    apply inService_of_isActive
    have e4 : SameStates s2 (State.placeAll m.frame.cls n m.ports s2) := (SameStates.common s2).placeAll _ (.refl s2)
    rw [e4.isActive, e3.isActive]
    exact hcopy o rfl

theorem KeptByClassifier.forward (h : KeptByClassifier n P) {f : Frame} (hs : P s) : P (s.forward p n f) := by
  unfold State.forward
  split
  · exact h.count _ _ _ hs
  · split
    · exact h.count _ _ _ hs
    · split
      · unfold State.forwardSync
        simp only
        split
        · exact h.count _ _ _ hs
        · refine h.placeAll _ (fun q hq => ?_) (h.rewrite _ _ hs)
          have e : SameStates s (s.rewriteSlot n ({ f with hops := f.hops - 1 }).recheck) :=
            (SameStates.common s).rewrite _ _ _ (.refl s)
          rw [e.isActive]
          exact (List.mem_filter.mp hq).2
      · exact h.forwardEvaluated hs

theorem KeptByClassifier.offerKeyed (h : KeptByClassifier n P) {f : Frame} (hs : P s) : P (s.offerKeyed p n f) := by
  unfold State.offerKeyed
  simp only
  split
  · unfold State.resend
    simp only
    rw [countReplyLost_eq]
    exact h.agent _ _ rfl rfl rfl rfl (h.own _ _ _ hs)
  · next hc =>
    split
    · exact h.agent _ _ rfl rfl rfl rfl hs
    · next hd =>
      split
      · exact h.agent _ _ rfl rfl rfl rfl hs
      · next hq => exact h.capture _ _ _ _ hc (by simpa using hd) (by omega) hs

theorem KeptByClassifier.manageStep (h : KeptByClassifier n P) {f : Frame} (hs : P s) : P (s.manageStep p n f) := by
  unfold State.manageStep
  split
  · split
    · split
      · unfold State.offerDirect
        split
        · exact h.agent _ _ rfl rfl rfl rfl hs
        · exact h.offerKeyed hs
      · exact h.count _ _ _ hs
    · exact h.count _ _ _ hs
  · split
    · apply h.forward
      unfold State.offerBroadcast
      split
      · exact h.offerKeyed hs
      · exact hs
    · exact h.forward hs

/-- The classification of a frame keeps `P`, up to the release of its reference (R28). -/
theorem KeptByClassifier.classify (h : KeptByClassifier n P) {f : Frame} (hs : P s) : P (s.classify p n f) := by
  unfold State.classify
  split
  · exact h.agent _ _ rfl rfl rfl rfl hs
  split
  · exact h.count _ _ _ hs
  split
  · exact h.count _ _ _ hs
  split
  · exact h.count _ _ _ hs
  simp only
  have hl : P ((s.syncStep p f).learn f.src p).2 := by
    apply h.learn
    unfold State.syncStep
    split
    · next h0 => exact h.trunkSync _ h0.2.2 hs
    · exact hs
  split
  · exact h.count _ _ _ hl
  · exact h.manageStep hl

/-- A property that the common operations keep is kept by the classifier when learning, the lock, the hit counters and the
meters keep it. -/
theorem KeptInCommon.classifier (h : KeptInCommon P) (hsync : ∀ s, s.isActive .t = true → P s → P s.trunkSync)
    (hlearn : ∀ s a p, P s → P (s.learn a p).2) (hhit : ∀ s d, P s → P (countHit d s))
    (hconsult : ∀ s k c, P s → P (s.consult k c).2) : KeptByClassifier n P where
  place := fun _ _ _ _ hs => h.place hs
  own := fun _ _ _ hs => h.own hs
  count := h.count
  agent := fun _ _ _ _ _ _ hs => h.agent _ _ hs
  capture := fun _ _ _ _ _ _ _ hs => h.takeRequest (h.addRef _ _ (h.agent _ _ hs))
  rewrite := fun _ _ hs => h.rewrite _ _ _ hs
  raise := fun _ _ _ hs => h.notices _ _ hs
  trunkSync := hsync
  learn := hlearn
  countHit := hhit
  consult := hconsult

/-! ## A step -/

/-- A step is an event, or a millisecond, on the part with its queue's rest. -/
theorem step_effect (h : step s = .next t) : ∃ rest, EventEffect { s with pending := rest } t := by
  unfold step at h
  split at h
  · cases h
    by_cases hr : s.device.resetHeld = true
    · refine ⟨s.pending, ?_⟩
      have e : s.millisecond = s := by
        unfold State.millisecond
        rw [if_pos hr]
      rw [e]
      exact .nothing
    · exact ⟨s.pending, .millisecond (by simpa using hr)⟩
  · exact ⟨_, exec_effect h⟩

end Sys2Proof.Safety
end

