-- ==== Sys2Proof/Laws/References.lean ====
section
/-! SUPPORT. What the end of an egress's service does to the slots, said once: each stop gives up exactly the references
that the egress holds (R91, R93, R96, R109, R110). -/

namespace Sys2Proof.Safety

open Sys2Proof.Machine

/-- With the slots and the held counts in form, `t` is in form and `s` has given up `refs` on the way to it. -/
def Releases (refs : Nat → Nat) (s t : State) : Prop :=
  SlotsOk s → HeldOk s → SlotsOk t ∧ ReferencesReleased refs s t

/-! ## Releases compose -/

theorem ReferencesReleased.none {refs : Nat → Nat} {s t : State} (h : ReferencesReleased refs s t) {n : Nat}
    (hn : s.slot n = none) : t.slot n = none := by rw [h.slots, hn]

theorem ReferencesReleased.held_slot {refs : Nat → Nat} {s t : State} (h : ReferencesReleased refs s t) {n : Nat}
    (hn : (t.slot n).isSome = true) : (s.slot n).isSome = true := by
  cases hs : s.slot n with
  | none => rw [h.none hs] at hn; cases hn
  | some => rfl

theorem ReferencesReleased.trans {r q : Nat → Nat} {s t u : State} (h : ReferencesReleased r s t)
    (g : ReferencesReleased q t u) : ReferencesReleased (fun n => r n + q n) s u where
  held := g.held
  slots n := by
    have ht := h.slots n
    have hu := g.slots n
    cases hs : s.slot n with
    | none => exact g.none (h.none hs)
    | some x =>
      rw [hs] at ht
      simp only at ht ⊢
      by_cases h0 : r n = 0
      · rw [if_pos h0] at ht
        rw [ht] at hu
        simpa only [h0, Nat.zero_add] using hu
      · rw [if_neg h0] at ht
        rw [if_neg (by omega)]
        by_cases h1 : x.refs ≤ r n
        · rw [if_pos h1] at ht
          rw [if_pos (by omega)]
          exact g.none ht
        · rw [if_neg h1] at ht
          rw [ht] at hu
          rw [hu]
          simp only
          by_cases h2 : q n = 0
          · rw [if_pos h2, if_neg (by omega), h2]
            rfl
          · rw [if_neg h2, Nat.sub_sub]
            by_cases h3 : x.refs ≤ r n + q n
            · rw [if_pos (by omega), if_pos h3]
            · rw [if_neg (by omega), if_neg h3]
  offer := by
    rw [g.offer, h.offer]
    constructor
    · rintro ((due | ⟨n, hs, ht⟩) | ⟨n, ht, hu⟩)
      · exact .inl due
      · exact .inr ⟨n, hs, g.none ht⟩
      · exact .inr ⟨n, h.held_slot ht, hu⟩
    · rintro (due | ⟨n, hs, hu⟩)
      · exact .inl (.inl due)
      · cases ht : t.slot n with
        | none => exact .inl (.inr ⟨n, hs, ht⟩)
        | some => exact .inr ⟨n, by rw [ht]; rfl, hu⟩

theorem Releases.trans {r q : Nat → Nat} {s t u : State} (h : Releases r s t) (g : Releases q t u) :
    Releases (fun n => r n + q n) s u := by
  intro hs hh
  obtain ⟨ht, k⟩ := h hs hh
  obtain ⟨hu, l⟩ := g ht k.held
  exact ⟨hu, k.trans l⟩

theorem Releases.congr {r q : Nat → Nat} {s t : State} (h : Releases r s t) (e : ∀ n, r n = q n) : Releases q s t := by
  have hrq : r = q := funext e
  rwa [← hrq]

/-- Where nothing of the store's slots, its held counts and the slot offer changes, nothing is released. -/
theorem Releases.same {s t : State} (h1 : t.store.slots = s.store.slots) (h2 : t.store.held = s.store.held)
    (h3 : t.notices.offerDue = s.notices.offerDue) : Releases (fun _ => 0) s t := by
  intro hs hh
  have e : ∀ n, t.slot n = s.slot n := fun n => by unfold State.slot; rw [h1]
  refine ⟨by unfold SlotsOk; rwa [h1], fun n => ?_, by unfold HeldOk; rwa [h1, h2], ?_⟩
  · rw [e]
    cases s.slot n <;> rfl
  · rw [h3]
    refine ⟨.inl, ?_⟩
    rintro (due | ⟨n, hs, ht⟩)
    · exact due
    · rw [e] at ht
      rw [ht] at hs
      cases hs

/-! ## One release -/

/-- The slots after one release of slot `n`. -/
theorem releaseRef_slot {s : State} (hr : rising s.store.slots = true) (n m : Nat) : (s.releaseRef n).slot m =
    match s.slot m with
    | none => none
    | some x => if m ≠ n then some x else if x.refs ≤ 1 then none else some { x with refs := x.refs - 1 } := by
  rcases releaseRef_cases s n with ⟨hx, e⟩ | ⟨x, hx, h1, e⟩ | ⟨x, hx, h1, e⟩ <;> rw [e]
  · by_cases hm : m = n
    · subst hm
      rw [hx]
    · cases s.slot m <;> simp [hm]
  · by_cases hm : m = n
    · subst hm
      rw [hx]
      simp only [ne_eq, not_true, if_false, h1, if_true]
      exact lookup_remove_self hr
    · have : lookup m (remove n s.store.slots) = s.slot m := lookup_remove_other hm _
      show lookup m (remove n s.store.slots) = _
      rw [this]
      cases s.slot m <;> simp [hm]
  · by_cases hm : m = n
    · subst hm
      rw [hx]
      simp only [ne_eq, not_true, if_false]
      rw [if_neg (by omega)]
      exact lookup_put_self _ _ _
    · have : lookup m (put n { x with refs := x.refs - 1 } s.store.slots) = s.slot m := lookup_put_other hm _ _
      show lookup m (put n { x with refs := x.refs - 1 } s.store.slots) = _
      rw [this]
      cases s.slot m <;> simp [hm]

/-- A release keeps the slots in form. -/
theorem releaseRef_slotsOk {s : State} (h : SlotsOk s) (n : Nat) : SlotsOk (s.releaseRef n) := by
  rcases releaseRef_cases s n with ⟨_, e⟩ | ⟨x, _, _, e⟩ | ⟨x, hx, _, e⟩ <;> rw [e]
  · exact h
  · exact ⟨rising_remove h.1, fun e he => h.2 e (mem_remove he)⟩
  · refine ⟨rising_put h.1, fun e he => ?_⟩
    rcases mem_put he with rfl | he
    · exact h.2 (n, x) (lookup_mem hx)
    · exact h.2 e he

/-- A release keeps the held counts true (R93). -/
theorem releaseRef_heldOk {s : State} (hs : SlotsOk s) (h : HeldOk s) (n : Nat) : HeldOk (s.releaseRef n) := by
  intro p
  have hp := h p
  rcases releaseRef_cases s n with ⟨_, e⟩ | ⟨x, hx, _, e⟩ | ⟨x, hx, _, e⟩ <;> rw [e]
  · exact hp
  · show (lowerHeld s.store.held x.origin).get p = (remove n s.store.slots).countP _
    have hc := countP_remove hx (fun e => decide (e.2.origin = .port p))
    cases ho : x.origin with
    | agent =>
      simp [ho] at hc
      simp only [lowerHeld]
      omega
    | port q =>
      simp only [lowerHeld]
      by_cases hq : p = q
      · subst hq
        rw [PerPort.get_set_self]
        simp [ho] at hc
        omega
      · rw [PerPort.get_set_other _ hq]
        simp [ho, Ne.symm hq] at hc
        omega
  · show s.store.held.get p = (put n { x with refs := x.refs - 1 } s.store.slots).countP _
    rw [countP_put_same (x := { x with refs := x.refs - 1 }) hs.1 hx rfl]
    exact hp

/-- One release gives up one reference to its slot (R96). -/
theorem releaseRef_releases (s : State) (n : Nat) : Releases (fun m => [n].count m) s (s.releaseRef n) := by
  intro hs hh
  have count : ∀ m, [n].count m = if m = n then 1 else 0 := fun m => by
    by_cases hm : m = n
    · simp [hm]
    · simp [hm, Ne.symm hm]
  refine ⟨releaseRef_slotsOk hs n, fun m => ?_, releaseRef_heldOk hs hh n, ?_⟩
  · rw [releaseRef_slot hs.1, count]
    cases s.slot m with
    | none => rfl
    | some x => by_cases hm : m = n <;> simp [hm]
  · rcases releaseRef_cases s n with ⟨_, e⟩ | ⟨x, hx, h1, e⟩ | ⟨x, hx, h1, e⟩
    · rw [e]
      refine ⟨.inl, ?_⟩
      rintro (due | ⟨m, hm, hn⟩)
      · exact due
      · rw [hn] at hm
        cases hm
    · refine ⟨fun _ => .inr ⟨n, by rw [hx]; rfl, ?_⟩, fun _ => by rw [e]⟩
      rw [releaseRef_slot hs.1, hx]
      simp [h1]
    · refine ⟨fun due => .inl (by rw [e] at due; exact due), ?_⟩
      rintro (due | ⟨m, hm, hn⟩)
      · rw [e]
        exact due
      · exfalso
        rw [releaseRef_slot hs.1] at hn
        cases hx' : s.slot m with
        | none => rw [hx'] at hm; cases hm
        | some y =>
          rw [hx'] at hn
          by_cases hmn : m = n
          · subst hmn
            rw [hx] at hx'
            cases hx'
            have : ¬ x.refs ≤ 1 := by omega
            simp [this] at hn
          · simp [hmn] at hn

/-! ## The stop of an egress -/

theorem reportEnd_releases (s : State) (n : Nat) : Releases (fun _ => 0) s (s.reportEnd n) := by
  rcases reportEnd_cases s n with ⟨_, e⟩ | ⟨_, e⟩ <;> rw [e] <;> exact Releases.same rfl rfl rfl

/-- A flush gives up each entry's reference (R109). -/
theorem releaseAll_releases (l : List Nat) (s : State) : Releases (fun n => l.count n) s (State.releaseAll l s) := by
  induction l generalizing s with
  | nil => exact (Releases.same rfl rfl rfl).congr (fun n => by simp)
  | cons a l ih =>
    unfold State.releaseAll
    refine (((reportEnd_releases s a).trans (releaseRef_releases _ a)).trans (ih _)).congr (fun n => ?_)
    simp only [List.count_cons, List.count_nil]
    omega

/-- An abort gives up the transmitter's reference (R108). -/
theorem abortTransmission_releases (s : State) (p : Port) :
    Releases (fun n => (s.port p).egress.transmitter.toList.count n) s (s.abortTransmission p) := by
  unfold State.abortTransmission
  simp only
  split
  · next h =>
    rw [h]
    exact (Releases.same rfl rfl rfl).congr (fun n => by simp)
  · next m h =>
    rw [h]
    have counted : ∀ e, Releases (fun _ => 0) s (State.count (s.setEgress p e) p .txAbort) :=
      fun e => Releases.same rfl rfl rfl
    exact (((counted _).trans (reportEnd_releases _ m)).trans (releaseRef_releases _ m)).congr (fun n => by simp)

/-- The end of an egress's service gives up exactly the references that the egress holds (R109). -/
theorem stopEgress_releases (s : State) (p : Port) : Releases (egressRefs s p) s (s.stopEgress p) := by
  unfold State.stopEgress
  simp only
  have he := abortTransmission_egress s p
  refine (((abortTransmission_releases s p).trans
    (Releases.same (t := State.setEgress _ p _) rfl rfl rfl)).trans (releaseAll_releases _ _)).congr (fun n => ?_)
  rw [he]
  unfold egressRefs queuedSlots
  simp only [List.count_append]
  omega

theorem egressRefs_stopEgress_other (s : State) {p q : Port} (h : q ≠ p) (n : Nat) :
    egressRefs (s.stopEgress p) q n = egressRefs s q n := by
  unfold egressRefs
  rw [(stopEgress_only s p).others q h]

/-- The stop of all five egresses gives up exactly the references that the egresses hold (R110). -/
theorem stopAll_releases (s : State) : Releases (allEgressRefs s) s s.stopAll := by
  unfold State.stopAll
  refine (((((stopEgress_releases s .t).trans (stopEgress_releases _ .b1)).trans (stopEgress_releases _ .b2)).trans
    (stopEgress_releases _ .b3)).trans (stopEgress_releases _ .b4)).congr (fun n => ?_)
  unfold allEgressRefs
  simp only [egressRefs_stopEgress_other _ (show Port.b1 ≠ .t by decide),
    egressRefs_stopEgress_other _ (show Port.b2 ≠ .t by decide),
    egressRefs_stopEgress_other _ (show Port.b2 ≠ .b1 by decide),
    egressRefs_stopEgress_other _ (show Port.b3 ≠ .t by decide),
    egressRefs_stopEgress_other _ (show Port.b3 ≠ .b1 by decide),
    egressRefs_stopEgress_other _ (show Port.b3 ≠ .b2 by decide),
    egressRefs_stopEgress_other _ (show Port.b4 ≠ .t by decide),
    egressRefs_stopEgress_other _ (show Port.b4 ≠ .b1 by decide),
    egressRefs_stopEgress_other _ (show Port.b4 ≠ .b2 by decide),
    egressRefs_stopEgress_other _ (show Port.b4 ≠ .b3 by decide)]

end Sys2Proof.Safety
end

