-- ==== Sys2Proof/Tests/Slice0.lean ====
section
/-! SUPPORT. Tests of single events whose expected values are the spec's own (its worked examples, tables and code
lists), and for every statement with hypotheses a witness: concrete states and operands that meet them together, one
for each clause, at the boundaries of its ranges. -/

namespace Sys2Proof.Tests

-- One theorem after another: each kernel evaluation would hold a thread of its own while it waits for the last.
set_option Elab.async false

open Sys2Proof.Machine Sys2Proof.Safety

/-! ## Sample states -/

/-- The part in RUNNING after its sweep, with its values at reset. -/
def running : State := { State.reset with device := ⟨.running, false, none, false, false⟩ }

/-- The part while RESET_N is held low. -/
def low : State := { State.reset with device := ⟨.running, false, none, false, true⟩ }

/-- The state after an event; the state itself where the event stops. -/
def after (i : Instr) (s : State) : State :=
  match exec i s with
  | .next t => t
  | _ => s

/-- A frame of class 1 with hop count 6 and a right check. -/
def frame (dest src : Word) (kind : Kind) (payload : List Byte) : Frame :=
  Frame.recheck ⟨dest, src, kind, 1, none, 6, 7, payload, 0⟩

/-- `s` with the receiver of `p` RECEIVING. -/
def receiving (s : State) (p : Port) (stored : List Byte) (n : Nat) : State :=
  s.setPort p { s.port p with receiver := .receiving stored n }

/-- `s` with the transmitter of `p` SENDING slot `n`. -/
def sending (s : State) (p : Port) (n : Nat) : State :=
  s.setEgress p { (s.port p).egress with transmitter := some n }

/-- `s` with port `p` in a commanded mode and its state. -/
def inMode (s : State) (p : Port) (m : Mode) : State :=
  s.setPort p { s.port p with commanded := m, state := m.toState }

/-- `s` with `f` of port `p` in slot 0, awaiting its classification. -/
def waiting (s : State) (p : Port) (f : Frame) : State :=
  { s with
    store :=
      { s.store with
        slots := [(0, ⟨f, .port p, 0, 1⟩)], held := s.store.held.set p 1, awaiting := s.store.awaiting.set p [0] } }

/-- `s` with a Station Table. -/
def withStations (s : State) (l : List (Nat × StationEntry)) : State :=
  { s with stations := { s.stations with entries := l } }

/-- `s` with meter 12 configured. -/
def withMeter12 (s : State) (m : Meter) : State := s.setMeter 12 m

/-- `s` with the edit claim held by a station, for 60 s. -/
def claimedBy (s : State) (holder : Word) : State := { s with agent := { s.agent with claim := some ⟨holder, 60, 58000⟩ } }

/-- `s` with the request of station 0310h on B2, with this code, flags and arguments, in the execution position. -/
def asking (s : State) (code flags : Byte) (args : List Byte) : State :=
  { s with
    store :=
      { s.store with
        slots := [(0, ⟨frame 0xE000 0x310 .mgmt ([0, 22, code, flags] ++ args), .port .b2, 0, 1⟩)]
        held := s.store.held.set .b2 1 }
    agent := { s.agent with executing := some ⟨0x310, 22, .b2, 0⟩ } }

/-- A part whose claim station 0310h holds. -/
def owned : State := claimedBy running 0x310

/-- Fixed entries for stations 1 to `n`, all PINNED on B1. -/
def pinnedTable (n : Nat) : List (Nat × StationEntry) := (List.range n).map (fun k => (k + 1, ⟨.b1, .pinned⟩))

/-! ## WellFormed, the decoder and the check -/

/-- The part has no meter 32 (R72). -/
theorem test_meter_32_is_ill_formed : Instr.wellFormed (.periodExpiry 32) = false := by decide

/-- Meter 31 is the part's last (R72). -/
theorem test_meter_31_is_well_formed : Instr.wellFormed (.periodExpiry 31) = true := by decide

/-- The table gives no row any bits, so no word spells a command. -/
theorem test_no_word_spells_a_command : decodeTableWord 0 0 = none ∧ decodeTableWord 8 1 = none := by decide

/-- R211: the nine bytes 31h to 39h give the check 29B1h. -/
theorem test_check_reference : crc [0x31, 0x32, 0x33, 0x34, 0x35, 0x36, 0x37, 0x38, 0x39] = 0x29B1 := by decide +kernel

/-- R210: a tagged frame of kind MGMT and class 3, its bytes written out field by field. -/
theorem test_frame_bytes :
    (Frame.body ⟨0xFFFF, 0x0410, .mgmt, 3, some 0x123, 15, 9, [0xA5], 0⟩) =
      [0xFF, 0xFF, 0x04, 0x10, 0b01011100, 0x0F, 0x01, 0x09, 0x01, 0x23, 0xA5] := by decide

/-- R118: a must-be-zero bit of byte 5 makes a header test fail. -/
theorem test_reserved_hop_bit_is_malformed :
    readFrame [0x03, 0x10, 0x01, 0x05, 0x08, 0x16, 0x00, 0x00] 0 = none := by decide

/-- R213: the rule of position 5 of 1.4, less its first and second pairs: PASS with tag SET 0123h, FIRSTOF, on B1 to
B3. -/
theorem test_rule_record_bytes :
    ruleBytes ⟨.firstOf, 0b01110, [⟨.dest, .equal, 0, 0, 0⟩],
      [⟨.pass, .set, false, false, false, false, 0, 0, 0, 0, 0x123⟩]⟩ =
      [0b10001001, 0b00001110, 0x00, 0, 0, 0, 0, 0, 0b00000100, 0, 0, 0, 0x01, 0x23] := by decide

/-- 1.5: an ANY rule whose term 1 is a PAYLOAD term with offset 63 and whose action steers to port 6 is refused with
detail 6 and index 1. -/
theorem test_term_tests_come_before_action_tests :
    readRuleRecord
      [0b01010001, 0x1F, 0x00, 0, 0, 0, 0, 0, 0x08, 63, 0, 0, 0, 0, 0x02, 0x06, 0, 0, 0, 0] = .error ⟨6, 1⟩ := by rfl

/-! ## Evaluation (1.4) and learning (3.9) -/

/-- Position 3 of 1.4: ALL on B1 and B2, KIND 0 and TAG 0040h under mask 0FF0h: STEER to B3, class rewrite 2, meter 5. -/
def rule3 : Rule :=
  ⟨.all, 0b00110, [⟨.kind, .equal, 0, 0, 0xFFFF⟩, ⟨.tag, .equal, 0, 0x40, 0xFF0⟩],
    [⟨.steer, .leave, false, false, true, true, 3, 2, 0, 5, 0⟩]⟩

/-- Position 5 of 1.4: FIRSTOF with the terms and actions of the table. -/
def rule5 : Rule :=
  ⟨.firstOf, 0b01110,
    [⟨.payload, .equal, 0, 0xA500, 0xFF00⟩, ⟨.cls, .equal, 0, 3, 0xFFFF⟩, ⟨.dest, .equal, 0, 0, 0⟩],
    [⟨.pass, .leave, false, true, false, false, 0, 0, 1, 0, 0⟩, ⟨.pass, .leave, false, false, true, false, 0, 1, 0, 0, 0⟩,
      ⟨.pass, .set, false, false, false, false, 0, 0, 0, 0, 0x123⟩]⟩

/-- The bank of 1.4, with its positions 3 and 5. -/
def example14 : State :=
  { running with
    rules := ⟨⟨⟨.pass, some .b4⟩, [(3, ⟨rule3, 0⟩), (5, ⟨rule5, 7⟩)]⟩, .swept, .a, 12, false⟩ }

/-- 1.4, frame 1: position 5 decides by its action 0. -/
theorem test_example_14_frame_1 :
    evaluate .b1 (frame 0x310 0x105 .data [0xA5, 0x17, 0, 0, 0, 0]) example14 =
      ⟨⟨.pass, .leave, false, true, false, false, 0, 0, 1, 0, 0⟩, some 5, some .b4⟩ := by decide +kernel

/-- 1.4, frame 2: tagged 045h on B2, decided by position 3. -/
theorem test_example_14_frame_2 :
    (evaluate .b2 { frame 0x310 0x105 .data [0] with tag := some 0x45 } example14).position = some 3 := by decide +kernel

/-- 1.4, frame 3: one payload byte holds no pair, and class 3 selects action 1. -/
theorem test_example_14_frame_3 :
    (evaluate .b3 { frame 0x310 0x105 .data [0x7F] with cls := 3 } example14).action =
      ⟨.pass, .leave, false, false, true, false, 0, 1, 0, 0, 0⟩ := by decide +kernel

/-- 3.9 before its fourth event: three moves counted, the threshold 4. -/
def example39 : State :=
  { running with
    stations :=
      { running.stations with
        entries := [(0x105, ⟨.b3, .learned 300⟩), (0x220, ⟨.b1, .learned 300⟩), (0x330, ⟨.b2, .pinned⟩)]
        threshold := 4, moveCount := 3 } }

/-- 3.9, fourth event: 0220h moves to B2 with a full age, the storm flag is set, and MOVE_STORM names 0220h. -/
theorem test_example_39_storm :
    ((example39.learn 0x220 .b2).2.station 0x220, (example39.learn 0x220 .b2).2.stations.moveCount,
      (example39.learn 0x220 .b2).2.stations.storm, ((example39.learn 0x220 .b2).2.source .moveStorm).detail) =
      (some ⟨.b2, .learned 300⟩, 4, true, 0x220) := by decide +kernel

/-- 3.9, seventh event: a frame that claims to come from the PINNED 0330h on B1 meets the guard and changes nothing. -/
theorem test_example_39_guard : example39.learn 0x330 .b1 = (.guard, example39) := by decide +kernel

/-! ## Meters (4.6, 4.7), egress (5.10), trunk sync (6.8) -/

/-- Meter 12 of 4.7 with credit 2. -/
def example47 : State := withMeter12 running ⟨.single, 8, 1, 1, .drop, true, 2, .armed, none, 2, 0⟩

/-- 4.7, third event: cost 3 exceeds a credit of 2; nothing is taken, the meter is SPENT, METER_SPENT names 12. -/
theorem test_example_47_spent :
    ((example47.consult 12 3).2.meter 12, ((example47.consult 12 3).2.source .meterSpent).detail) =
      (⟨.single, 8, 1, 1, .drop, true, 2, .spent, none, 2, 1⟩, 12) := by decide +kernel

/-- 4.7, fifth event: a trunk SYNC arms the SPENT meter again at its ceiling. -/
theorem test_example_47_sync :
    ((after (.classification .t) (waiting (example47.consult 12 3).2 .t (frame 0xFFFF 0x9 .sync []))).meter 12) =
      ⟨.single, 8, 1, 1, .drop, true, 8, .armed, none, 2, 1⟩ := by decide +kernel

/-- 5.10, second row: B2 completes x, and opens a round with a1 sent, a2 and a3 left in class 2. -/
def example510 : State :=
  { running with
    ports := running.ports.set .b2
      { running.port .b2 with
        egress :=
          { (running.port .b2).egress with
            q2 := [11, 12, 13], q1 := [21, 22, 23], q0 := [31, 32], transmitter := some 9 } } }

/-- 5.10, second row. -/
theorem test_example_510_round_opens :
    (let e := ((after (.transmitComplete .b2) example510).port .b2).egress
     (e.transmitter, e.q2, e.q1, e.q0, e.round)) =
      (some 11, [12, 13], [21, 22, 23], [31, 32], ⟨3, 2, 1⟩) := by decide +kernel

/-- 6.8 at 64 ms: T leaves ACTIVE for LISTEN while LOCKED. -/
theorem test_example_68_listen :
    (let t := after .setPort (asking { owned with
        sync := ⟨true, 8, some 4⟩, meters := { owned.meters with gateOpen := true } } 0x06 0
        [0, 1, 1, 0, 128, 0, 32, 5, 4, 2, 1])
     ((t.port .t).state, t.sync, t.meters.gateOpen, (t.source .syncLost).detail)) =
      (.listen, ⟨false, 8, none⟩, false, 1) := by decide +kernel

/-- 6.8 at 55 ms: SET_SYNC 8 ms caps the 15 ms that remain. -/
theorem test_example_68_set_sync :
    (after .setSync (asking { owned with sync := ⟨true, 20, some 15⟩ } 0x15 0 [8])).sync = ⟨true, 8, some 8⟩ := by
  decide +kernel

/-! ## Management (7.8, 8.4, 9.8) -/

/-- 7.8, second execution: 0310h holds the claim with 58 s to run, and CLAIM of another station is HELD. -/
theorem test_example_78_held :
    ((after .claim (asking (claimedBy running 0x310) 0x03 0 [30])).agent.claim,
      (after .claim (asking (claimedBy running 0x420) 0x03 0 [30])).agent.cache.map (fun e => e.reply.payload)) =
      (some ⟨0x310, 30, 30000⟩, [[0, 22, 0x03, 0x02, 0, 0, 0x04, 0x20, 58]]) := by decide +kernel

/-- 8.4: the clearing read of B2's first part returns the counts, zeroes all twenty and keeps them in the image. -/
theorem test_example_84_clearing_read :
    (let k : Counters := { Counters.zero with rxGood := 900, rxCrc := 4, txGood := 870, txQFull := 2 }
     let t := after .readPortClear (asking (owned.setPort .b2 { owned.port .b2 with counters := k }) 0x07 1 [2, 1])
     ((t.port .b2).image, (t.port .b2).counters)) =
      ({ Counters.zero with rxGood := 900, rxCrc := 4, txGood := 870, txQFull := 2 }, Counters.zero) := by decide +kernel

/-- 9.8 at 120 ms: METER_SPENT is in service as notice 41, and PORT_BLOCKED is sent as notice 42 beside it. -/
theorem test_example_98_nested :
    (let s : State :=
      { running with
        notices :=
          { running.notices with
            target := 0x310, port := .b2, sequence := 41, causeDue := true
            sources :=
              { running.notices.sources with
                meterSpent := ⟨true, false, 0, 12, some ⟨41, 1, 1, 12⟩, some 380, false⟩
                portBlocked := ⟨true, true, 1, 3, none, none, false⟩ } } }
     let t := after .noticeService s
     (t.notices.sequence, (t.source .portBlocked).record, (t.source .portBlocked).timer,
       (t.slot 0).map (fun x => x.frame.payload))) =
      (42, some ⟨42, 1, 1, 3⟩, some 500, some [42, 1, 1, 1, 0, 3, 0, 0b00100010]) := by decide +kernel

/-- R160, R214: IDENTIFY answers the vendor and part codes, the revision, the address and the restart count. -/
theorem test_identify_reply :
    (after .identify (asking running 0x01 0 [])).agent.cache.map (fun e => e.reply.payload) =
      [[0, 22, 0x01, 0x00, 0, 0, 0x2D, 0x0B, 0x51, 0x01, 0xE0, 0x00, 0]] := by decide +kernel

/-! ## Witnesses: the step, reset, reception -/

theorem test_witness_StepTakesFrontCommand :
    { running with pending := [.agingTick, .resetNLow] }.pending = .agingTick :: [.resetNLow] := by decide

theorem test_witness_EmptyQueueIsOneMillisecond :
    (running.pending = [] ∧ running.device.resetHeld = false) ∧ (low.pending = [] ∧ low.device.resetHeld = true) := by
  decide

theorem test_witness_PinResetStarts : (sending running .b1 9).device.resetHeld = false := by decide

theorem test_witness_NoEventWhileResetHeld :
    low.device.resetHeld = true ∧ (Instr.periodExpiry 31).wellFormed = true ∧
      ∀ straps, Instr.periodExpiry 31 ≠ .resetNRelease straps :=
  ⟨by decide, by decide, fun _ h => nomatch h⟩

theorem test_witness_ReleaseAndSweep :
    low.device.resetHeld = true ∧ State.reset.device.resetHeld = false ∧ State.reset.device.sweeping = true := by decide

theorem test_witness_RestartPointResets :
    let s := { running with device := ⟨.restarting, false, none, true, false⟩ }
    s.device.resetHeld = false ∧ s.device.restartDue = true := by decide

theorem test_witness_StartMarkBeginsAFrame :
    (inMode running .b1 .disabled).inService .b1 = false ∧
      (running.inService .b1 = true ∧ (running.port .b1).receiver = .idle) ∧
      ((receiving running .b1 [1] 1).port .b1).receiver = .receiving [1] 1 ∧
      (receiving running .b1 [1] 1).device.state = .running ∧
      ((receiving State.reset .b1 [1] 1).port .b1).receiver = .receiving [1] 1 ∧
      (receiving State.reset .b1 [1] 1).inService .b1 = true ∧
      (receiving State.reset .b1 [1] 1).device.state ≠ .running := by decide

/-- A frame of B1 that validation lets in. -/
def goodFrame : Frame := frame 0x330 0x220 .data [1, 2, 3]

theorem test_good_frame_is_ok : FrameOk goodFrame := by
  refine ⟨?_, ?_, ?_, ?_⟩ <;> decide +kernel

/-- `running` with B1 RECEIVING an empty frame at held count `n`. -/
def ready (n : Nat) : State :=
  receiving { running with store := { running.store with held := running.store.held.set .b1 n } } .b1 [] 0

theorem test_witness_GoodFrameTakesASlot :
    (ready 127).device.resetHeld = false ∧ (ready 127).device.state = .running ∧ (ready 127).inService .b1 = true ∧
      ((ready 127).port .b1).receiver = .receiving [] 0 ∧ FrameOk goodFrame ∧
      (ready 127).store.held.get .b1 < ((ready 127).port .b1).quota ∧ (ready 127).lowestFreeSlot = some 0 :=
  ⟨by decide, by decide, by decide, by decide, test_good_frame_is_ok, by decide, by decide +kernel⟩

/-- Every slot from `k` up to `k + n` is held. -/
def heldFrom (k : Nat) : Nat → List (Nat × Slot)
  | 0 => []
  | n + 1 => (k, ⟨goodFrame, .agent, 0, 1⟩) :: heldFrom (k + 1) n

theorem lookup_heldFrom (j k n : Nat) (h : k ≤ j) (h' : j < k + n) : (lookup j (heldFrom k n)).isSome = true := by
  induction n generalizing k with
  | zero => omega
  | succ n ih =>
    simp only [heldFrom, lookup]
    split
    · rfl
    · exact ih (k + 1) (by omega) (by omega)

theorem lowestFree_heldFrom (fuel j n : Nat) (h : j + fuel ≤ n) : lowestFree fuel j (heldFrom 0 n) = none := by
  induction fuel generalizing j with
  | zero => rfl
  | succ fuel ih =>
    have hl := lookup_heldFrom j 0 n (by omega) (by omega)
    simp only [lowestFree]
    split
    · simp_all
    · exact ih (j + 1) (by omega)

theorem heldFrom_slots_ok (k n : Nat) :
    rising (heldFrom k n) = true ∧ (∀ e ∈ heldFrom k n, k ≤ e.1 ∧ e.1 < k + n) := by
  induction n generalizing k with
  | zero => exact ⟨rfl, fun e he => nomatch he⟩
  | succ n ih =>
    obtain ⟨h, hb⟩ := ih (k + 1)
    refine ⟨?_, ?_⟩
    · simp only [heldFrom]
      cases hn : heldFrom (k + 1) n with
      | nil => rfl
      | cons e rest =>
        rw [hn] at h hb
        simp only [rising, Bool.and_eq_true, decide_eq_true_eq]
        exact ⟨by have := (hb e (by simp)).1; omega, h⟩
    · intro e he
      simp only [heldFrom, List.mem_cons] at he
      rcases he with rfl | he
      · exact ⟨Nat.le_refl k, by show k < k + (n + 1); omega⟩
      · have := hb e he
        omega

theorem lowestFree_all_held {fuel j : Nat} {l : List (Nat × Slot)}
    (h : ∀ m, j ≤ m → m < j + fuel → (lookup m l).isSome = true) : lowestFree fuel j l = none := by
  induction fuel generalizing j with
  | zero => rfl
  | succ fuel ih =>
    have hj := h j (Nat.le_refl j) (by omega)
    simp only [lowestFree]
    split
    · simp_all
    · exact ih (fun m h1 h2 => h m (by omega) (by omega))

/-- `s` with no free slot. -/
def exhausted (s : State) : State := { s with store := { s.store with slots := heldFrom 0 384 } }

theorem exhausted_has_no_free_slot (s : State) : (exhausted s).lowestFreeSlot = none :=
  lowestFree_heldFrom 384 0 384 (by omega)

theorem test_witness_GoodFrameWithoutASlotIsLost :
    ((ready 128).device.resetHeld = false ∧ (ready 128).device.state = .running ∧ (ready 128).inService .b1 = true ∧
      ((ready 128).port .b1).receiver = .receiving [] 0 ∧ FrameOk goodFrame ∧
      ((ready 128).port .b1).quota ≤ (ready 128).store.held.get .b1) ∧
    (let s := exhausted (ready 127)
     s.device.resetHeld = false ∧ s.device.state = .running ∧ s.inService .b1 = true ∧
      (s.port .b1).receiver = .receiving [] 0 ∧ s.store.held.get .b1 < (s.port .b1).quota ∧ s.lowestFreeSlot = none) :=
  ⟨⟨by decide, by decide, by decide, by decide, test_good_frame_is_ok, by decide⟩,
    by decide, by decide, by decide, by decide, by decide, exhausted_has_no_free_slot _⟩

/-- The one state meets the hypotheses; data of 9, 10, 76 and 77 bytes reach the clauses at the bounds of the byte count. -/
theorem test_witness_BadFrameIsCounted :
    let s := receiving running .b1 [] 0
    s.device.resetHeld = false ∧ s.device.state = .running ∧ s.inService .b1 = true ∧
    (s.port .b1).receiver = .receiving [] 0 ∧ (s.port .b1).errorCount + 1 < (s.port .b1).errorLimit ∧
    (s.port .t).errorCount + 1 < (s.port .t).errorLimit ∧
    (List.replicate 9 (0 : Byte)).length < 10 ∧ 76 < (List.replicate 77 (0 : Byte)).length ∧
    crc ((List.replicate 10 (0 : Byte)).take 8) ≠ wordAt (List.replicate 10 0) 8 ∧
    crc ((List.replicate 76 (0 : Byte)).take 74) ≠ wordAt (List.replicate 76 0) 74 ∧
    (let bytes := List.replicate 8 (0 : Byte) ++ wordBytes (crc (List.replicate 8 0))
     bytes.length = 10 ∧ crc (bytes.take 8) = wordAt bytes 8 ∧ readFrame (bytes.take 8) (wordAt bytes 8) = none) := by
  decide +kernel

theorem test_witness_ErrorLimitBlocksABranch :
    let s := receiving (running.setPort .b1 { running.port .b1 with errorCount := 31 }) .b1 [] 0
    s.device.resetHeld = false ∧ s.device.state = .running ∧ s.inService .b1 = true ∧
    (s.port .b1).receiver = .receiving [] 0 ∧ judgeFrame ([0] : List Byte) 1 = .bad .rxMalformed ∧ Port.b1 ≠ .t ∧
    (s.port .b1).errorLimit ≠ 0 ∧ (s.port .b1).errorLimit ≤ (s.port .b1).errorCount + 1 ∧
    (s.port .b1).errorLimit ≤ 255 := by decide +kernel

/-- `s` with slot 5, referred to twice, under transmission on B1. -/
def carrying (s : State) : State :=
  { sending s .b1 5 with store := { s.store with slots := put 5 ⟨goodFrame, .agent, 0, 2⟩ s.store.slots } }

/-- The clauses on the references that an egress gives up, at a BLOCKED branch and at one that is disabled. -/
theorem test_witness_ReferencesReleased :
    (let s := carrying (receiving (running.setPort .b1 { running.port .b1 with errorCount := 31 }) .b1 [] 0)
     SlotsOk s ∧ HeldOk s ∧ egressRefs s .b1 5 = 1 ∧ s.inService .b1 = true ∧ (s.port .b1).receiver = .receiving [] 0) ∧
    (let s := carrying (asking owned 0x06 0 [1, 0, 1, 0, 128, 0, 32, 5, 4, 2, 1])
     SlotsOk s ∧ HeldOk s ∧ egressRefs s .b1 5 = 1 ∧ s.inService .b1 = true ∧ s.device.restartMark = none ∧
      s.executable.isSome = true) := by
  unfold SlotsOk keysBelow HeldOk
  exact ⟨⟨by decide +kernel, fun p => by cases p <;> decide +kernel, by decide +kernel⟩, by decide +kernel,
    fun p => by cases p <;> decide +kernel, by decide +kernel⟩

theorem test_witness_FrameDiscardedOutsideRunning :
    let s := receiving State.reset .b1 [1] 1
    s.device.resetHeld = false ∧ s.inService .b1 = true ∧ (s.port .b1).receiver = .receiving [1] 1 ∧
      s.device.state ≠ .running := by decide

/-! ## Witnesses: formats, evaluation, classification -/

theorem test_witness_FrameRoundTrip : FrameOk goodFrame ∧ judgeFrame goodFrame.toBytes 13 = .good goodFrame :=
  ⟨test_good_frame_is_ok, by decide +kernel⟩

theorem test_rule5_is_ok : RuleOk rule5 := by
  refine ⟨by decide, by decide, by decide, by decide, ?_, ?_⟩
  · intro t ht
    simp only [rule5, List.mem_cons, List.not_mem_nil, or_false] at ht
    rcases ht with rfl | rfl | rfl <;> (unfold TermOk; decide)
  · intro a ha
    simp only [rule5, List.mem_cons, List.not_mem_nil, or_false] at ha
    rcases ha with rfl | rfl | rfl <;> (unfold ActionOk; decide)

theorem test_witness_RuleRecordRoundTrip :
    RuleOk rule5 ∧ readRuleRecord (ruleBytes rule5) = .ok rule5 ∧
      recordLength (ruleBytes rule5) ≤ (ruleBytes rule5).length ∧ recordReservedClear (ruleBytes rule5) = true ∧
      firstFailure (ruleBytes rule5) = none ∧
      firstFailure [0b01010001, 0x1F, 0x00, 0, 0, 0, 0, 0, 0x08, 63, 0, 0, 0, 0, 0x02, 0x06, 0, 0, 0, 0] = some ⟨6, 1⟩ :=
  ⟨test_rule5_is_ok, by rfl, by decide +kernel, by decide +kernel, by decide +kernel, by decide +kernel⟩

/-- R7 on the sample frames: the TAG and PAYLOAD terms that hold not, in ALL and in FIRSTOF mode; payloads of 1 byte at
offset 0 and of 63 bytes at offset 62. -/
theorem test_witness_WhenATermHolds :
    let f := frame 0x310 0x105 .data [0x7F]
    (⟨.tag, .differ, 0, 0, 0⟩ : Term).selector = .tag ∧ f.tag = none ∧
    f.payload.length ≤ (⟨.payload, .equal, 0, 0xA500, 0xFF00⟩ : Term).offset.toNat + 1 ∧
    (List.replicate 63 (0 : Byte)).length ≤ (62 : Byte).toNat + 1 ∧
    (∃ t ∈ rule3.terms, t.holds f = false ∧ rule3.mode = .all) ∧
    (∃ t ∈ rule5.terms, t.holds f = true ∧ rule5.mode ≠ .all) ∧ RuleOk rule5 :=
  ⟨by decide, by decide, by decide, by decide, ⟨⟨.tag, .equal, 0, 0x40, 0xFF0⟩, by decide, by decide +kernel, by decide⟩,
    ⟨⟨.dest, .equal, 0, 0, 0⟩, by decide, by decide +kernel, by decide⟩, test_rule5_is_ok⟩

/-- Each field that a term reads, on a tagged SYNC frame with 64 bytes of payload: a term of each sense that holds; the pair
at the greatest offset, 62. -/
theorem test_witness_WhenATermHolds_fields :
    let f : Frame := ⟨0x310, 0x105, .sync, 2, some 0x123, 15, 9, List.replicate 62 0 ++ [0xA5, 0x17], 0⟩
    [(Selector.dest, (0x310 : Word)), (.source, 0x105), (.kind, 1), (.cls, 2), (.hops, 15), (.length, 64), (.seq, 9),
        (.tag, 0x123)].all (fun x =>
      Term.holds f ⟨x.1, .equal, 0, x.2, 0xFFFF⟩ && Term.holds f ⟨x.1, .differ, 0, x.2 + 1, 0xFFFF⟩) = true ∧
    f.tag = some 0x123 ∧ (62 : Byte).toNat + 1 < f.payload.length ∧
    Term.holds f ⟨.payload, .equal, 62, 0xA517, 0xFFFF⟩ = true ∧
    Term.holds f ⟨.payload, .differ, 62, 0xA518, 0xFFFF⟩ = true := by decide +kernel

/-- One rule of each mode, FIRSTOF with one term among them. -/
def oneTerm (m : MatchMode) : Rule := ⟨m, 1, [⟨.dest, .equal, 0, 0, 0⟩], [⟨.drop, .leave, false, false, false, false, 0, 0, 0, 0, 0⟩]⟩

theorem test_witness_MatchModes : ∀ m, RuleOk (oneTerm m) ∧ (oneTerm m).mode = m ∧ (oneTerm m).terms.length = 1 := by
  intro m
  refine ⟨⟨by cases m <;> decide, by cases m <;> decide, by cases m <;> decide, by cases m <;> decide, ?_, ?_⟩, rfl, rfl⟩
  · intro t ht
    simp only [oneTerm, List.mem_singleton] at ht
    subst ht
    unfold TermOk
    decide
  · intro a ha
    simp only [oneTerm, List.mem_singleton] at ha
    subst ha
    unfold ActionOk
    decide

theorem test_example14_banks : BanksOk example14 := by
  refine ⟨⟨by decide, ?_⟩, by decide, ?_⟩
  · intro e he
    simp only [example14, List.mem_cons, List.not_mem_nil, or_false] at he
    rcases he with rfl | rfl <;> decide
  · intro e he
    exact nomatch he

theorem test_witness_FirstMatchDecides :
    BanksOk example14 ∧ (evaluate .b2 { frame 0x310 0x105 .data [0] with tag := some 0x45 } example14).position = some 3 ∧
      (evaluate .b4 (frame 0x310 0x105 .data []) example14).position = none :=
  ⟨test_example14_banks, by decide +kernel, by decide +kernel⟩

/-- The default verdict of the working bank is PASS in the one state and DROP in the other. -/
theorem test_witness_DefaultDecides :
    (∀ e ∈ (example14.rules.bank example14.rules.working).positions, inPortSet .b4 e.2.rule.arrival = true →
      e.2.rule.decides (frame 0x310 0x105 .data []) = none) ∧
    (example14.rules.bank example14.rules.working).header.verdict = .pass ∧
    (let s := { running with rules := ⟨⟨⟨.drop, none⟩, []⟩, .swept, .a, 0, false⟩ }
     (∀ e ∈ (s.rules.bank s.rules.working).positions, inPortSet .b4 e.2.rule.arrival = true →
      e.2.rule.decides (frame 0x310 0x105 .data []) = none) ∧
     (s.rules.bank s.rules.working).header.verdict = .drop) := by decide +kernel

theorem test_witness_OnlyTheDecidingCounterCounts :
    BanksOk example14 ∧ (evaluate .b3 (frame 0x310 0x105 .data []) example14).position = some 5 ∧
      lookup 5 (example14.rules.bank example14.rules.working).positions = some ⟨rule5, 7⟩ :=
  ⟨test_example14_banks, by decide +kernel, by decide +kernel⟩

theorem waiting_alone (s : State) (p : Port) (f : Frame) (h : s.device.resetHeld = false) :
    AwaitsAlone (waiting s p f) p 0 [] ⟨f, .port p, 0, 1⟩ := by
  cases p <;> exact ⟨h, rfl, rfl, rfl, rfl⟩

/-- Each clause: outside RUNNING, on a port out of service, from the part's own address, a SYNC frame on a branch; from a
station PINNED elsewhere, to the part, on a LISTEN port, with hop count 0. -/
theorem test_witness_DiscardedWithOneCounter :
    AwaitsAlone (waiting State.reset .b1 goodFrame) .b1 0 [] ⟨goodFrame, .port .b1, 0, 1⟩ ∧
    (waiting State.reset .b1 goodFrame).device.state ≠ .running ∧
    (waiting running .b1 goodFrame).device.state = .running ∧
    (waiting (inMode running .b1 .disabled) .b1 goodFrame).inService .b1 = false ∧
    (waiting running .b1 goodFrame).inService .b1 = true ∧
    (frame 0x330 0xE000 .data []).src = running.agent.address ∧
    ((frame 0x330 0x220 .sync []).kind = .sync ∧ (frame 0x330 0x220 .sync []).src ≠ running.agent.address) ∧
    (goodFrame.src ≠ running.agent.address ∧ goodFrame.kind ≠ .sync ∧ goodFrame.kind ≠ .mgmt ∧
      goodFrame.dest ≠ running.agent.address) ∧
    (withStations running [(0x220, ⟨.b2, .pinned⟩)]).station goodFrame.src = some ⟨.b2, .pinned⟩ ∧
    running.station goodFrame.src = none ∧
    ((frame 0xE000 0x220 .data []).dest = running.agent.address ∧ (frame 0xE000 0x220 .data []).kind ≠ .mgmt) ∧
    (waiting (inMode running .b1 .listen) .b1 goodFrame).inService .b1 = true ∧
    ((waiting (inMode running .b1 .listen) .b1 goodFrame).port .b1).state = .listen ∧
    ((running.port .b1).state = .active ∧ Frame.hops { goodFrame with hops := 0 } = 0) :=
  ⟨waiting_alone _ _ _ rfl, by decide, by decide, by decide, by decide, by decide +kernel, by decide +kernel, by decide +kernel,
    by decide +kernel, by decide +kernel, by decide +kernel, by decide, by decide, by decide⟩

/-- A SYNC frame on T in LISTEN: from a station PINNED elsewhere, to the part, and neither. -/
theorem test_witness_DiscardedWithOneCounter_sync :
    let s := inMode running .t .listen
    AwaitsAlone (waiting s .t (frame 0xFFFF 0x9 .sync [])) .t 0 [] ⟨frame 0xFFFF 0x9 .sync [], .port .t, 0, 1⟩ ∧
    ((waiting s .t (frame 0xFFFF 0x9 .sync [])).device.state = .running ∧
      (waiting s .t (frame 0xFFFF 0x9 .sync [])).inService .t = true ∧
      ((waiting s .t (frame 0xFFFF 0x9 .sync [])).port .t).state = .listen) ∧
    ((frame 0xFFFF 0x9 .sync []).kind = .sync ∧ (frame 0xFFFF 0x9 .sync []).src ≠ s.agent.address ∧
      (frame 0xFFFF 0x9 .sync []).dest ≠ s.agent.address) ∧
    s.station 0x9 = none ∧ (withStations s [(9, ⟨.b2, .pinned⟩)]).station 0x9 = some ⟨.b2, .pinned⟩ ∧
    (frame 0xE000 0x9 .sync []).dest = s.agent.address :=
  ⟨waiting_alone _ _ _ rfl, by decide +kernel, by decide +kernel, by decide +kernel, by decide +kernel, by decide +kernel⟩

/-- Each clause of the table: a new station at 255 entries and at 256, a refresh, a move below the threshold and at it, a
PINNED entry on the arrival port and on another. -/
theorem test_witness_LearningRules :
    ((withStations running (pinnedTable 255)).station 0x220 = none ∧
      (withStations running (pinnedTable 255)).stations.entries.length = 255) ∧
    ((withStations running (pinnedTable 256)).station 0x220 = none ∧
      (withStations running (pinnedTable 256)).stations.entries.length = 256) ∧
    example39.station 0x220 = some ⟨.b1, .learned 300⟩ ∧
    (example39.stations.threshold ≤ (example39.learn 0x220 .b2).2.stations.moveCount ∧ example39.stations.storm = false) ∧
    ¬ ({ example39 with stations := { example39.stations with threshold := 5 } }.stations.threshold ≤
        ({ example39 with stations := { example39.stations with threshold := 5 } }.learn 0x220 .b2).2.stations.moveCount) ∧
    example39.station 0x330 = some ⟨.b2, .pinned⟩ ∧ (0x220 : Word) ≠ 0x330 := by decide +kernel

/-- Actions for each line of the table. -/
def actionOf (v : Verdict) (steer : BitVec 4) (limit : BitVec 5) : Action :=
  ⟨v, .leave, false, false, false, false, steer, 0, limit, 0, 0⟩

theorem test_witness_VerdictTable :
    (actionOf .drop 0 0).verdict = .drop ∧ (actionOf .steer 4 0).steerPort.toNat = portNumber .b4 ∧
    (inMode running .b4 .listen).isActive .b4 = false ∧ running.isActive .b4 = true ∧
    (isStation 0x330 = true ∧ example39.station 0x330 = some ⟨.b2, .pinned⟩ ∧ (example39.port .b2).state = .active) ∧
    isStation 0xFFFF = false ∧ example39.station 0x331 = none ∧
    (verdictTargets example39 .b1 0x330 (actionOf .pass 0 0)).ports ≠ [] ∧
    (verdictTargets example39 .b1 0x330 (actionOf .pass 0 1)).ports = [] ∧
    (verdictTargets example39 .b2 0x330 (actionOf .pass 0 0)).ports = [] ∧
    ¬ ((actionOf .pass 0 1).portLimit = 0) := by decide +kernel

theorem test_witness_TargetSetLaws :
    copyTarget running .b1 ⟨{ actionOf .drop 0 0 with copy := true }, none, some .b4⟩ [] = some .b4 := by decide

theorem test_witness_RewriteTable :
    (actionOf .drop 0 0).verdict = .drop ∧
      (∃ a : Action, a.verdict ≠ .drop ∧ a.classPresent = true ∧ a.tagOp = .set) ∧
      ∃ a : Action, a.verdict ≠ .drop ∧ a.classPresent = false ∧ a.tagOp = .strip :=
  ⟨by decide, ⟨⟨.pass, .set, false, false, true, false, 0, 2, 0, 0, 0x123⟩, by decide⟩,
    ⟨⟨.steer, .strip, false, false, false, false, 0, 2, 0, 0, 0x123⟩, by decide⟩⟩

/-- Payloads at the bounds of each cost, and a meter for each clause, the credit equal to the cost and one below it. -/
theorem test_witness_DecisionIsCarriedOut_charging :
    [15, 16, 31, 32, 47, 48, 63, 64].map (fun n => frameCost (frame 1 2 .data (List.replicate n 0))) =
      [1, 2, 2, 3, 3, 4, 4, 5] ∧
    (running.meter 12).mode = .off ∧
    ((example47.meter 12).mode ≠ .off ∧ 2 ≤ (example47.meter 12).credit ∧ (example47.meter 12).arm = .armed) ∧
    ((example47.meter 12).mode = .single ∧ (example47.meter 12).credit < 3) ∧
    (let s := withMeter12 running ⟨.gated, 8, 1, 1, .drop, true, 2, .armed, none, 2, 0⟩
     (s.meter 12).mode ≠ .off ∧ (s.meter 12).mode ≠ .single ∧ (s.meter 12).credit < 3) ∧
    ((withMeter12 running ⟨.single, 8, 1, 1, .drop, true, 2, .spent, none, 2, 0⟩).meter 12).arm = .spent := by decide +kernel

/-- A part whose one rule takes every frame: PASS with class rewrite 2, meter 12, copy and notice; its observation port is
B4; meter 12 holds a credit of `credit`. -/
def metering (credit : Nat) (exceed : ExceedAction) : State :=
  withMeter12
    { running with
      rules :=
        ⟨⟨⟨.pass, some .b4⟩,
          [(7, ⟨⟨.all, 0b11111, [⟨.dest, .equal, 0, 0, 0⟩],
            [⟨.pass, .leave, true, true, true, true, 0, 2, 0, 12, 0⟩]⟩, 0⟩)]⟩, .swept, .a, 0, false⟩
      stations := { running.stations with entries := [(0x330, ⟨.b2, .pinned⟩)] } }
    ⟨.continuous, 8, 1, 1, exceed, false, credit, .armed, some 1, 0, 0⟩

theorem waiting_slots_ok (s : State) (p : Port) (f : Frame) : SlotsOk (waiting s p f) := by
  refine ⟨rfl, ?_⟩
  intro e he
  simp only [waiting, List.mem_singleton] at he
  subst he
  exact (by decide : 0 < Config.slotCount)

theorem waiting_idle_is_empty (s : State) (p : Port) (f : Frame) (h : s.ports = running.ports) :
    IdleIsEmpty (waiting s p f) := by
  intro q
  have hq : (waiting s p f).port q = running.port q := congrArg (fun x => PerPort.get x q) h
  rw [hq]
  unfold EgressOk
  cases q <;> decide

/-- A metered PASS to 0330h on B2: within the credit, exceeded under DROP, exceeded under DEMOTE; the deciding position is 7,
and B4 takes the copy. A default DROP charges RX_RULEDROP. -/
theorem test_witness_DecisionIsCarriedOut :
    (∀ credit exceed, AwaitsAlone (waiting (metering credit exceed) .b1 goodFrame) .b1 0 [] ⟨goodFrame, .port .b1, 0, 1⟩ ∧
      IdleIsEmpty (waiting (metering credit exceed) .b1 goodFrame) ∧
      SlotsOk (waiting (metering credit exceed) .b1 goodFrame)) ∧
    (let s := waiting (metering 0 .drop) .b1 goodFrame
     s.device.state = .running ∧ (s.port .b1).state = .active ∧ goodFrame.kind ≠ .sync ∧ goodFrame.kind ≠ .mgmt ∧
      goodFrame.src ≠ s.agent.address ∧ goodFrame.dest ≠ s.agent.address ∧ goodFrame.hops ≠ 0 ∧
      s.station goodFrame.src = none) ∧
    (let d := evaluate .b1 goodFrame (metering 1 .drop)
     d.position = some 7 ∧ d.action.meterPresent = true ∧ d.action.copy = true ∧ d.action.notice = true ∧
      d.observation = some .b4 ∧
      (verdictTargets (metering 1 .drop) .b1 goodFrame.dest d.action).ports = [.b2] ∧
      ((metering 1 .drop).consult 12 (frameCost goodFrame)).1 = .conforms ∧
      ((metering 0 .drop).consult 12 (frameCost goodFrame)).1 = .exceeds .drop ∧
      ((metering 0 .demote).consult 12 (frameCost goodFrame)).1 = .exceeds .demote) ∧
    (let s := { running with rules := ⟨⟨⟨.drop, none⟩, []⟩, .swept, .a, 0, false⟩ }
     (evaluate .b1 goodFrame s).position = none ∧
      (verdictTargets s .b1 goodFrame.dest (evaluate .b1 goodFrame s).action).charge = some .rxRuleDrop) :=
  ⟨fun _ _ => ⟨waiting_alone _ _ _ rfl, waiting_idle_is_empty _ _ _ rfl, waiting_slots_ok _ _ _⟩, by decide +kernel,
    by decide +kernel, by decide +kernel⟩

/-- A DATA frame from 0220h on B1 to 0330h on B2, whose transmitter is SENDING slot 9 with 31 entries in class 1. -/
def forwarding : State :=
  waiting
    (let s := sending (withStations running [(0x220, ⟨.b1, .learned 5⟩), (0x330, ⟨.b2, .pinned⟩)]) .b2 9
     s.setEgress .b2 { (s.port .b2).egress with q1 := List.replicate 31 9 })
    .b1 goodFrame

theorem test_witness_KnownStationIsForwarded :
    AwaitsAlone forwarding .b1 0 [] ⟨goodFrame, .port .b1, 0, 1⟩ ∧ forwarding.device.state = .running ∧
    (forwarding.port .b1).state = .active ∧ goodFrame.kind = .data ∧ goodFrame.hops ≠ 0 ∧
    goodFrame.src ≠ forwarding.agent.address ∧ goodFrame.dest ≠ forwarding.agent.address ∧
    isStation goodFrame.dest = true ∧ goodFrame.dest ≠ goodFrame.src ∧
    forwarding.station goodFrame.src = some ⟨.b1, .learned 5⟩ ∧
    forwarding.station goodFrame.dest = some ⟨.b2, .pinned⟩ ∧ Port.b2 ≠ .b1 ∧ (forwarding.port .b2).state = .active ∧
    (evaluate .b1 goodFrame forwarding).position = none ∧
    (forwarding.rules.bank forwarding.rules.working).header.verdict = .pass ∧
    (forwarding.port .b2).egress.transmitter = some 9 ∧
    ((forwarding.port .b2).egress.queue goodFrame.cls).length < 32 :=
  ⟨waiting_alone _ _ _ rfl, by decide +kernel⟩

theorem test_witness_SyncFrameKeepsTheLock :
    let s := waiting running .t (frame 0xFFFF 0x9 .sync [])
    s.device.resetHeld = false ∧ s.device.state = .running ∧ s.store.awaiting.t = 0 :: [] ∧
    s.slot 0 = some ⟨frame 0xFFFF 0x9 .sync [], .port .t, 0, 1⟩ ∧ (s.port .t).state = .active ∧
    (frame 0xFFFF 0x9 .sync []).kind = .sync ∧ (frame 0xFFFF 0x9 .sync []).src ≠ s.agent.address := by decide +kernel

/-- `running` with only T in service. -/
def trunkOnly : State := inMode (inMode (inMode (inMode running .b1 .listen) .b2 .listen) .b3 .disabled) .b4 .disabled

/-- A SYNC frame from a station PINNED on B2; to the part; with hop count 0; with no ACTIVE branch; with four. -/
theorem test_witness_SyncFrameKeepsTheLock_flood :
    (let f := frame 0xFFFF 0x9 .sync []
     let s := waiting running .t f
     AwaitsAlone s .t 0 [] ⟨f, .port .t, 0, 1⟩ ∧ IdleIsEmpty s ∧ SlotsOk s) ∧
    (let s := waiting running .t (frame 0xFFFF 0x9 .sync [])
     s.station 0x9 = none ∧ (frame 0xFFFF 0x9 .sync []).dest ≠ s.agent.address ∧
      (frame 0xFFFF 0x9 .sync []).hops ≠ 0 ∧ (s.port .b1).state = .active) ∧
    (withStations running [(9, ⟨.b2, .pinned⟩)]).station 0x9 = some ⟨.b2, .pinned⟩ ∧
    (frame 0xE000 0x9 .sync []).dest = running.agent.address ∧
    Frame.hops { frame 0xFFFF 0x9 .sync [] with hops := 0 } = 0 ∧
    (∀ q ∈ allPorts, q ≠ .t → (trunkOnly.port q).state ≠ .active) ∧ (trunkOnly.port .t).state = .active ∧
    IdleIsEmpty (waiting trunkOnly .t (frame 0xFFFF 0x9 .sync [])) :=
  ⟨⟨waiting_alone _ _ _ rfl, waiting_idle_is_empty _ _ _ rfl, waiting_slots_ok _ _ _⟩, by decide +kernel, by decide +kernel,
    by decide +kernel, by decide +kernel, by decide, by decide, fun p => by unfold EgressOk; cases p <;> decide +kernel⟩

/-- A request of station 0310h with `n` bytes of payload. -/
def requestFrame (n : Nat) : Frame := frame 0xE000 0x310 .mgmt (([0, 22, 1, 0] : List Byte).take n)

/-- `running` with `n` requests of another station in the queue. -/
def queueing (n : Nat) : State :=
  { running with
    agent :=
      { running.agent with
        executing := some ⟨0x420, 9, .t, 8⟩, queue := (List.range n).map (fun k => ⟨0x420, BitVec.ofNat 16 k, .t, k⟩) } }

/-- Each clause: a port that allows no management; 3 bytes and 4; a duplicate; 4 queued requests and 3. -/
theorem test_witness_CaptureRules :
    AwaitsAlone (waiting (queueing 3) .b2 (requestFrame 4)) .b2 0 [] ⟨requestFrame 4, .port .b2, 0, 1⟩ ∧
    ((waiting (queueing 3) .b2 (requestFrame 4)).device.state = .running ∧
      (waiting (queueing 3) .b2 (requestFrame 4)).inService .b2 = true ∧ (requestFrame 4).kind = .mgmt ∧
      (requestFrame 4).dest = (queueing 3).agent.address ∧ (requestFrame 4).src ≠ (queueing 3).agent.address ∧
      ((waiting (queueing 3) .b2 (requestFrame 4)).learn 0x310 .b2).1 = .goOn) ∧
    ((waiting (queueing 3) .b2 (requestFrame 4)).port .b2).allowed = true ∧
    (running.setPort .b2 { running.port .b2 with allowed := false }).inService .b2 = true ∧
    (requestFrame 3).payload.length < 4 ∧ 4 ≤ (requestFrame 4).payload.length ∧
    (queueing 4).agent.cached 0x310 (requestId (requestFrame 4).payload) = none ∧
    (queueing 4).agent.duplicate 0x310 22 = false ∧ 4 ≤ (queueing 4).agent.queue.length ∧
    (queueing 3).agent.duplicate 0x310 22 = false ∧ (queueing 3).agent.queue.length < 4 ∧
    (queueing 3).agent.duplicate 0x420 2 = true ∧ (queueing 3).agent.cached 0x420 2 = none :=
  ⟨waiting_alone _ _ _ rfl, by decide +kernel⟩

/-- `running` with a cached reply to request 22 of station 0310h. -/
def replied : State :=
  { running with agent := { running.agent with cache := [⟨0x310, 22, frame 0x310 0xE000 .reply [0, 22, 1, 0]⟩] } }

/-- An IDENTIFY of station 0310h to broadcast, with hop count `hops`. -/
def broadcastIdentify (hops : BitVec 4) : Frame := { frame 0xFFFF 0x310 .mgmt [0, 22, 1, 0] with hops := hops }

/-- `s` with `f` of B2 in slot 0, awaiting its classification, and no free slot. -/
def waitingFull (s : State) (f : Frame) : State :=
  { s with
    store :=
      { s.store with slots := (0, ⟨f, .port .b2, 0, 1⟩) :: heldFrom 1 383, awaiting := ⟨[], [], [0], [], []⟩ } }

theorem waitingFull_has_no_free_slot (s : State) (f : Frame) : (waitingFull s f).lowestFreeSlot = none := by
  refine lowestFree_all_held (fun m _ h => ?_)
  by_cases hm : m = 0
  · subst hm
    rfl
  · rw [show lookup m (waitingFull s f).store.slots = lookup m (heldFrom 1 383) by
      simp [waitingFull, lookup, Ne.symm hm]]
    exact lookup_heldFrom m 1 383 (by omega) (by unfold Config.slotCount at h; omega)

theorem waitingFull_slots_ok (s : State) (f : Frame) : SlotsOk (waitingFull s f) := by
  obtain ⟨h, hb⟩ := heldFrom_slots_ok 1 383
  refine ⟨?_, fun e he => ?_⟩
  · show (decide (0 < 1) && rising (heldFrom 1 383)) = true
    rw [h]
    rfl
  · have he' : e = (0, ⟨f, .port .b2, 0, 1⟩) ∨ e ∈ heldFrom 1 383 := List.mem_cons.mp he
    unfold Config.slotCount
    rcases he' with rfl | he'
    · exact (by decide : 0 < 384)
    · have := (hb e he').2
      omega

/-- The cached reply of a repeated request: a free slot at an IDLE port with empty queues, a full class queue 3, no free
slot. -/
theorem test_witness_CaptureRules_resend :
    AwaitsAlone (waiting replied .b2 (requestFrame 4)) .b2 0 [] ⟨requestFrame 4, .port .b2, 0, 1⟩ ∧
    (waiting replied .b2 (requestFrame 4)).agent.cached (requestFrame 4).src (requestId (requestFrame 4).payload) =
      some (frame 0x310 0xE000 .reply [0, 22, 1, 0]) ∧
    ((waiting replied .b2 (requestFrame 4)).learn 0x310 .b2).1 = .goOn ∧
    (waiting replied .b2 (requestFrame 4)).lowestFreeSlot = some 1 ∧
    ((waiting replied .b2 (requestFrame 4)).port .b2).egress.queued = 0 ∧
    (let s := sending replied .b2 9
     32 ≤ ((s.setEgress .b2 { (s.port .b2).egress with q3 := List.replicate 32 9 }).port .b2).egress.q3.length ∧
      ((s.setEgress .b2 { (s.port .b2).egress with q3 := List.replicate 32 9 }).port .b2).egress.transmitter = some 9) ∧
    (let s := waitingFull replied (requestFrame 4)
     AwaitsAlone s .b2 0 [] ⟨requestFrame 4, .port .b2, 0, 1⟩ ∧ s.lowestFreeSlot = none) :=
  ⟨waiting_alone _ _ _ rfl, by decide +kernel, by decide +kernel, by decide +kernel, by decide, by decide, ⟨rfl, rfl, rfl, rfl, rfl⟩,
    waitingFull_has_no_free_slot _ _⟩

/-- A broadcast IDENTIFY: taken at 3 queued requests, dropped at 4, a duplicate, a key in the cache; not offered without the
allowance or with another command code; on a LISTEN port, and with hop count 0. -/
theorem test_witness_CaptureRules_broadcast :
    AwaitsAlone (waiting (queueing 3) .b2 (broadcastIdentify 6)) .b2 0 [] ⟨broadcastIdentify 6, .port .b2, 0, 1⟩ ∧
    ((waiting (queueing 3) .b2 (broadcastIdentify 6)).device.state = .running ∧
      (waiting (queueing 3) .b2 (broadcastIdentify 6)).inService .b2 = true ∧ (broadcastIdentify 6).kind = .mgmt ∧
      (broadcastIdentify 6).dest = 0xFFFF ∧ (queueing 3).agent.address ≠ 0xFFFF ∧
      (broadcastIdentify 6).src ≠ (queueing 3).agent.address ∧
      ((waiting (queueing 3) .b2 (broadcastIdentify 6)).learn 0x310 .b2).1 = .goOn) ∧
    (((queueing 3).port .b2).allowed = true ∧ 4 ≤ (broadcastIdentify 6).payload.length ∧
      commandCode (broadcastIdentify 6).payload = 0x01) ∧
    ((running.setPort .b2 { running.port .b2 with allowed := false }).port .b2).allowed = false ∧
    commandCode (frame 0xFFFF 0x310 .mgmt [0, 22, 2, 0]).payload ≠ 0x01 ∧
    ((queueing 3).agent.cached 0x310 22 = none ∧ (queueing 3).agent.duplicate 0x310 22 = false ∧
      (queueing 3).agent.queue.length < 4 ∧ 4 ≤ (queueing 4).agent.queue.length ∧
      (queueing 3).agent.duplicate 0x420 2 = true ∧ (queueing 3).agent.executing ≠ none ∧ running.agent.executing = none) ∧
    replied.agent.cached 0x310 22 = some (frame 0x310 0xE000 .reply [0, 22, 1, 0]) ∧
    ((inMode (queueing 3) .b2 .listen).port .b2).state = .listen ∧
    (inMode (queueing 3) .b2 .listen).inService .b2 = true ∧ (broadcastIdentify 0).hops = 0 :=
  ⟨waiting_alone _ _ _ rfl, by decide +kernel⟩

/-- A broadcast MGMT frame on an ACTIVE port with hop count 6, taken, a duplicate, dropped, its key in the cache with and
without a free slot, and one with another command code: the part is settled. -/
theorem test_witness_CaptureRules_evaluated :
    (∀ s ∈ [queueing 3, queueing 4, replied],
      AwaitsAlone (waiting s .b2 (broadcastIdentify 6)) .b2 0 [] ⟨broadcastIdentify 6, .port .b2, 0, 1⟩ ∧
      IdleIsEmpty (waiting s .b2 (broadcastIdentify 6)) ∧ SlotsOk (waiting s .b2 (broadcastIdentify 6))) ∧
    (∀ s ∈ [queueing 3, queueing 4, replied],
      ((waiting s .b2 (broadcastIdentify 6)).port .b2).state = .active ∧
      ((waiting s .b2 (broadcastIdentify 6)).learn 0x310 .b2).1 = .goOn) ∧
    (waiting replied .b2 (broadcastIdentify 6)).lowestFreeSlot = some 1 ∧
    settledAt (waiting replied .b2 (broadcastIdentify 6)) .b2 ∧ (broadcastIdentify 6).hops ≠ 0 ∧
    (let s := waitingFull replied (broadcastIdentify 6)
     AwaitsAlone s .b2 0 [] ⟨broadcastIdentify 6, .port .b2, 0, 1⟩ ∧ s.lowestFreeSlot = none ∧ SlotsOk s) := by
  refine ⟨?_, by decide +kernel, by decide +kernel, fun _ => by decide, by decide, ⟨rfl, rfl, rfl, rfl, rfl⟩,
    waitingFull_has_no_free_slot _ _, waitingFull_slots_ok _ _⟩
  intro s hs
  simp only [List.mem_cons, List.not_mem_nil, or_false] at hs
  rcases hs with rfl | rfl | rfl <;>
    exact ⟨waiting_alone _ _ _ rfl, waiting_idle_is_empty _ _ _ rfl, waiting_slots_ok _ _ _⟩

/-! ## Witnesses: egress and timers -/

/-- `s` with the egress of B2 given by its queues 3 to 0, its round and its transmitter. -/
def egressOf (s : State) (q3 q2 q1 q0 : List Nat) (round : Round) (sent : Option Nat) : State :=
  s.setEgress .b2
    { (s.port .b2).egress with q3 := q3, q2 := q2, q1 := q1, q0 := q0, round := round, transmitter := sent }

/-- Placement at 32 and at 31 entries, and a selection for each clause. -/
theorem test_witness_PlacementAndSelection :
    32 ≤ (((egressOf running [] (List.replicate 32 9) [] [] .closed (some 9)).port .b2).egress.queue 2).length ∧
    (let s := egressOf (waiting running .b1 goodFrame) [] (List.replicate 31 9) [] [] .closed (some 9)
     ((s.port .b2).egress.queue 2).length < 32 ∧ (s.port .b2).egress.transmitter = some 9 ∧ s.slot 0 ≠ none) ∧
    (running.inService .b2 = true ∧ (running.port .b2).egress.residency = 0 ∧
      (running.port .b2).egress.transmitter = none) ∧
    ((egressOf running [1] [2] [] [] ⟨1, 0, 0⟩ none).port .b2).egress.q3 = 1 :: [] ∧
    ((egressOf running [] [2] [] [] ⟨1, 0, 0⟩ none).port .b2).egress.round.left2 ≠ 0 ∧
    ((egressOf running [] [2] [3] [] ⟨0, 1, 0⟩ none).port .b2).egress.round.left1 ≠ 0 ∧
    ((egressOf running [] [2] [3] [4] ⟨0, 0, 1⟩ none).port .b2).egress.round.left0 ≠ 0 ∧
    (let e := ((egressOf running [] [2] [3] [4] ⟨0, 0, 0⟩ none).port .b2).egress
     e.round = ⟨0, 0, 0⟩ ∧ e.q2 = 2 :: [] ∧ e.share2 ≠ 0 ∧ e.share1 ≠ 0 ∧ e.share0 ≠ 0) := by decide +kernel

/-- One AGENT frame in class queue 3, accepted at 0, at age `age`, under a limit of 5 ms. -/
def ageing (age : Nat) : State :=
  let s := { egressOf running [0] [] [] [] .closed none with
    store := { running.store with slots := [(0, ⟨goodFrame, .agent, 0, 1⟩)], clock := age } }
  s.setEgress .b2 { (s.port .b2).egress with residency := 5 }

/-- Ages 5 and 6 ms under a limit of 5 ms. -/
theorem test_witness_StaleHeadIsDiscarded :
    (ageing 6).inService .b2 = true ∧ ((ageing 6).port .b2).egress.transmitter = none ∧
    ((ageing 6).port .b2).egress.residency ≠ 0 ∧ ((ageing 6).port .b2).egress.q3 = [0] ∧
    ((ageing 6).port .b2).egress.q2 = [] ∧ ((ageing 6).port .b2).egress.q1 = [] ∧ ((ageing 6).port .b2).egress.q0 = [] ∧
    (ageing 6).slot 0 = some ⟨goodFrame, .agent, 0, 1⟩ ∧ (ageing 6).device.restartMark ≠ some 0 ∧
    0 ≤ (ageing 6).store.clock ∧ ((ageing 6).port .b2).egress.residency < (ageing 6).store.clock - 0 ∧
    (ageing 5).store.clock - 0 ≤ ((ageing 5).port .b2).egress.residency := by decide +kernel

/-- Class 1 serves its share of an open round with slot 3 at its head, at age `age`, under a limit of 5 ms, behind nothing in
class 3. -/
def roundAgeing (age : Nat) : State :=
  let s := { egressOf running [] [] [3, 4] [5] ⟨0, 1, 1⟩ none with
    store := { running.store with slots := [(3, ⟨goodFrame, .port .b1, 0, 1⟩)], clock := age } }
  s.setEgress .b2 { (s.port .b2).egress with residency := 5 }

/-- A stale head and a fresh one of class 3, of a member of an open round, and of the first member of a new round; no head
at an empty egress. -/
theorem test_witness_StaleHeadIsDiscarded_round :
    TakesHead ((ageing 6).port .b2).egress 3 0 [] .closed ∧ staleAt (ageing 6) .b2 0 ∧ freshAt (ageing 5) .b2 0 ∧
    ((roundAgeing 6).inService .b2 = true ∧ ((roundAgeing 6).port .b2).egress.transmitter = none) ∧
    TakesHead ((roundAgeing 6).port .b2).egress 1 3 [4] ⟨0, 1, 1⟩ ∧ staleAt (roundAgeing 6) .b2 3 ∧
    freshAt (roundAgeing 5) .b2 3 ∧
    TakesHead ((egressOf running [] [2] [3] [] .closed none).port .b2).egress 2 2 [] ⟨4, 2, 0⟩ ∧
    ((∀ c n rest r, ¬ TakesHead (running.port .b2).egress c n rest r) ∧ (running.port .b2).egress.round = ⟨0, 0, 0⟩) := by
  refine ⟨⟨rfl, .inl ⟨rfl, rfl⟩⟩, ⟨_, rfl, by decide, by decide⟩, ⟨_, rfl, .inr (by decide)⟩, by decide,
    ⟨rfl, .inr ⟨by decide, rfl, by decide, by decide, by decide⟩⟩, ⟨_, rfl, by decide, by decide⟩,
    ⟨_, rfl, .inr (by decide)⟩, ⟨rfl, .inr ⟨by decide, rfl, by decide, by decide, by decide⟩⟩, ?_, by decide⟩
  rintro c n rest r ⟨h, -⟩
  have empty : (running.port .b2).egress.queue c = [] := by
    unfold Egress.queue
    repeat' split
    all_goals rfl
  rw [empty] at h
  cases h

/-- `running` with slot 0, referred to `refs` times, under transmission on B2, and queue 3 as given. -/
def transmitting (refs : Nat) (q3 : List Nat) (mark : Option Nat) : State :=
  { egressOf running q3 [] [] [] .closed (some 0) with
    store := { running.store with slots := [(0, ⟨goodFrame, .port .b1, 0, refs⟩), (1, ⟨goodFrame, .port .b1, 0, 1⟩)] }
    device := ⟨if mark = none then .running else .restarting, false, mark, false, false⟩ }

theorem test_witness_TransmissionCompletes :
    let s := transmitting 1 [] none
    (s.device.resetHeld = false ∧ s.inService .b2 = true ∧ (s.port .b2).egress.transmitter = some 0 ∧
      s.slot 0 = some ⟨goodFrame, .port .b1, 0, 1⟩ ∧ (s.port .b2).egress.residency = 0) ∧
    (s.device.restartMark ≠ some 0 ∧ (s.port .b2).egress.q3 = [] ∧ (s.port .b2).egress.round = ⟨0, 0, 0⟩) ∧
    ((transmitting 1 [1] none).port .b2).egress.q3 = 1 :: [] ∧
    (transmitting 2 [1] none).slot 0 = some ⟨goodFrame, .port .b1, 0, 2⟩ ∧
    ((transmitting 1 [1] (some 0)).device.restartMark = some 0 ∧
      ((transmitting 1 [1] (some 0)).port .b2).egress.q3 = 1 :: []) := by decide +kernel

/-- A completion on B2 that frees slot 0 of a full store while METER_SPENT waits to be sent to B2, where class 2 waits. -/
def completing : State :=
  let s := egressOf running [] [1] [] [] .closed (some 0)
  let t := s.setSource .meterSpent ⟨true, true, 1, 12, none, none, false⟩
  { t with
    notices := { t.notices with target := 0x310, port := .b2, waiting := true }
    store := { t.store with slots := heldFrom 0 384 } }

/-- The open order of R107: the last free slot of a full store, a candidate for this port, and a lower class that waits. -/
theorem test_witness_TransmissionCompletes_order :
    (completing.device.resetHeld = false ∧ completing.inService .b2 = true ∧
      (completing.port .b2).egress.transmitter = some 0 ∧ completing.slot 0 = some ⟨goodFrame, .agent, 0, 1⟩ ∧
      (completing.port .b2).egress.residency = 0) ∧
    SlotsOk completing ∧ completing.device.restartMark ≠ some 0 ∧ anyCandidate completing = true ∧
    completing.lowestFreeSlot = none ∧ eligible completing .meterSpent = true ∧
    (∀ r ∈ allSources, (sourceRank r < sourceRank .meterSpent → eligible completing r = false) ∧
      (completing.source r).resendDue = false) ∧
    completing.notices.port = .b2 ∧ (completing.port .b2).egress.q3 = [] ∧
    (completing.port .b2).egress.round = ⟨0, 0, 0⟩ ∧ (completing.port .b2).egress.q2 = 1 :: [] ∧
    (completing.port .b2).egress.share2 ≠ 0 :=
  ⟨⟨by decide, by decide, by decide, rfl, by decide⟩,
    ⟨(heldFrom_slots_ok 0 384).1, fun e he => Nat.lt_of_lt_of_eq ((heldFrom_slots_ok 0 384).2 e he).2 rfl⟩,
    by decide, by decide, exhausted_has_no_free_slot _, by decide, by decide, by decide, by decide, by decide, by decide, by decide⟩

/-- A completion on B2 under a residency limit of 5 ms, with class queue 3 empty and class 2 waiting. -/
def transmittingLow (refs : Nat) (mark : Option Nat) : State :=
  let s := transmitting refs [] mark
  s.setEgress .b2 { (s.port .b2).egress with q2 := [1], residency := 5 }

/-- The last reference and another one, marked and unmarked, behind which a lower class waits under a limit; and the marked
reply's end while a notice waits. -/
theorem test_witness_TransmissionCompletes_selection :
    (∀ refs ∈ [1, 2], ∀ mark ∈ [none, some 0],
      let s := transmittingLow refs mark
      s.device.resetHeld = false ∧ s.inService .b2 = true ∧ (s.port .b2).egress.transmitter = some 0 ∧
      s.slot 0 = some ⟨goodFrame, .port .b1, 0, refs⟩ ∧ (s.port .b2).egress.residency ≠ 0 ∧
      (s.port .b2).egress.q3 = [] ∧ (s.port .b2).egress.q2 = [1] ∧ s.device.restartMark = mark ∧
      anyCandidate s = false) ∧
    (let s := { completing with device := { completing.device with state := .restarting, restartMark := some 0 } }
     SlotsOk s ∧ s.device.restartMark = some 0 ∧ anyCandidate s = true) :=
  ⟨by decide +kernel,
    ⟨(heldFrom_slots_ok 0 384).1, fun e he => Nat.lt_of_lt_of_eq ((heldFrom_slots_ok 0 384).2 e he).2 rfl⟩,
    by decide, by decide⟩

/-- No candidate: the premise of the clauses on a release without one. -/
theorem test_witness_TransmissionCompletes_no_candidate :
    anyCandidate (transmitting 1 [] none) = false ∧ anyCandidate (transmitting 1 [1] (some 0)) = false := by decide

theorem test_witness_CopyCompletes :
    let s := { example14 with rules := { example14.rules with copying := true } }
    s.device.resetHeld = false ∧ s.rules.copying = true := by decide

theorem test_witness_TimersExpire :
    (owned.device.resetHeld = false ∧ owned.agent.claim = some ⟨0x310, 60, 58000⟩) ∧
    (let s := { running with sync := ⟨true, 20, some 1⟩, meters := { running.meters with gateOpen := true } }
     s.device.resetHeld = false ∧ s.sync.locked = true ∧ s.meters.gateOpen = true) ∧
    ((running.setPort .b1 { running.port .b1 with state := .blocked, blockTimer := some 1 }).port .b1).state = .blocked ∧
    ((running.setPort .b1 { running.port .b1 with commanded := .listen, state := .blocked }).port .b1).commanded = .listen := by
  decide

theorem test_example39_stations : StationsOk example39 := by unfold StationsOk; decide

/-- Ages 1 and 2, a PINNED entry and an absent one. -/
theorem test_witness_AgingTick :
    let s := withStations running [(1, ⟨.b1, .learned 1⟩), (2, ⟨.b1, .learned 2⟩), (3, ⟨.b1, .pinned⟩)]
    s.device.resetHeld = false ∧ StationsOk s ∧ s.station 1 = some ⟨.b1, .learned 1⟩ ∧
      s.station 2 = some ⟨.b1, .learned (0 + 2)⟩ ∧ s.station 3 = some ⟨.b1, .pinned⟩ ∧ s.station 4 = none := by
  unfold StationsOk; decide +kernel

/-- Meters 31 and 32 are the bounds of the two clauses. -/
theorem test_witness_PeriodExpiry :
    let s := running.setMeter 31 ⟨.continuous, 20, 5, 100, .demote, false, 12, .armed, some 1, 2, 0⟩
    31 < 32 ∧ s.device.resetHeld = false ∧ (s.meter 31).timer.isSome = true ∧ 32 ≤ 32 := by decide +kernel

/-- METER_SPENT in service at an attempt. -/
def inService (attempt : Nat) : State :=
  running.setSource .meterSpent ⟨true, false, 0, 12, some ⟨41, attempt, 1, 12⟩, some 1, false⟩

theorem test_witness_ResendTimerExpiry :
    (inService 3).device.resetHeld = false ∧ ((inService 3).source .meterSpent).timer = some 1 ∧
    ((inService 3).source .meterSpent).record = some ⟨41, 3, 1, 12⟩ ∧
    ((inService 4).source .meterSpent).record = some ⟨41, 4, 1, 12⟩ := by decide

/-- METER_SPENT pending and enabled for target 0310h behind B2, the sequence counter at `n`. -/
def noticeReady (n : Nat) : State :=
  let s := sending (running.setSource .meterSpent ⟨true, true, 1, 12, none, none, false⟩) .b2 9
  { s with notices := { s.notices with target := 0x310, port := .b2, causeDue := true, sequence := n } }

/-- `s` with METER_SPENT in service as notice 41, its resend due. -/
def resending (s : State) : State := s.setSource .meterSpent ⟨true, true, 3, 9, some ⟨41, 1, 2, 12⟩, none, true⟩

/-- `s` with class queue 3 of B2 holding 32 entries. -/
def fullB2 (s : State) : State := s.setEgress .b2 { (s.port .b2).egress with q3 := List.replicate 32 9 }

/-- Each case: none due; in WAITING a cause alone; due without a candidate; due with a candidate and no free slot, READY and
WAITING; a first send and a resend with a free slot, at a SENDING port, at an IDLE one, at a full queue, at a port out of
service. -/
theorem test_witness_NoticeService :
    (running.device.resetHeld = false ∧ running.notices.causeDue = false ∧ running.notices.offerDue = false) ∧
    (let s := { noticeReady 0 with notices := { (noticeReady 0).notices with waiting := true } }
     s.notices.waiting = true ∧ s.notices.causeDue = true ∧ s.notices.offerDue = false) ∧
    (let s := withOffer running
     serviceActs s ∧ ∀ q ∈ allSources, (s.source q).resendDue = false ∧ eligible s q = false) ∧
    (serviceActs (exhausted (noticeReady 0)) ∧ Candidate (exhausted (noticeReady 0)) .meterSpent ∧
      (exhausted (noticeReady 0)).lowestFreeSlot = none) ∧
    serviceActs (withOffer { noticeReady 0 with notices := { (noticeReady 0).notices with waiting := true } }) ∧
    (let s := noticeReady 254
     s.device.resetHeld = false ∧ serviceActs s ∧ Candidate s .meterSpent ∧ (s.source .meterSpent).resendDue = false ∧
      (∀ r ∈ allSources, sourceRank r < sourceRank .meterSpent → (s.source r).resendDue = false ∧ eligible s r = false) ∧
      s.lowestFreeSlot = some 0 ∧ (s.port s.notices.port).egress.transmitter = some 9) ∧
    (let s := resending (noticeReady 254)
     serviceActs s ∧ Candidate s .meterSpent ∧ (s.source .meterSpent).resendDue = true ∧
      (s.source .meterSpent).record = some ⟨41, 1, 2, 12⟩ ∧ s.lowestFreeSlot = some 0) ∧
    (((fullB2 (noticeReady 0)).port .b2).egress.q3.length = 32 ∧
      ((fullB2 (noticeReady 0)).port .b2).egress.transmitter = some 9) ∧
    ((inMode running .b2 .disabled).inService .b2 = false ∧ settledAt (inMode running .b2 .disabled) .b2) :=
  ⟨by decide, by decide, ⟨.inr rfl, by decide⟩, ⟨.inl ⟨rfl, .inl rfl⟩, .inr ⟨rfl, rfl⟩, exhausted_has_no_free_slot _⟩, .inr rfl,
    ⟨rfl, .inl ⟨rfl, .inl rfl⟩, .inr ⟨rfl, rfl⟩, rfl, by decide, by decide +kernel, rfl⟩,
    ⟨.inl ⟨rfl, .inl rfl⟩, .inl ⟨rfl, by decide⟩, rfl, rfl, by decide +kernel⟩, by decide, by decide, fun _ => rfl⟩

/-- The sequence after 254, after 255, and after 254 and 255 where a source in service has 255 or 1. -/
theorem test_witness_NoticeService_sequence :
    sequenceAfter 254 1 = 255 ∧ sequenceAfter 255 1 = 1 ∧ sequenceAfter 254 2 = 1 ∧ sequenceAfter 255 2 = 2 ∧
    SequenceTaken (running.setSource .ruleHit ⟨true, false, 0, 0, some ⟨255, 1, 1, 0⟩, some 1, false⟩) 255 ∧
    SequenceTaken (running.setSource .ruleHit ⟨true, false, 0, 0, some ⟨1, 1, 1, 0⟩, some 1, false⟩) 1 :=
  ⟨by decide, by decide, by decide, by decide, ⟨.ruleHit, _, rfl, rfl⟩, ⟨.ruleHit, _, rfl, rfl⟩⟩

theorem all_sources_listed (q : Source) : q ∈ allSources := by cases q <;> decide

/-! ## Witnesses: executions -/

/-- Some request stands in the execution position of `s` with this code, well formed for `n` bytes of arguments, from the
holder or not, and its payload satisfies `more`. -/
def Meets (s : State) (code : Byte) (n : Nat) (holder : Bool) (more : List Byte → Bool) : Prop :=
  ∃ r f, Executing s r f ∧ Asks f code n ∧ (Holder s r ↔ holder = true) ∧ more f.payload = true

/-- `Meets` as a computation. -/
def meetsAll (s : State) (code : Byte) (n : Nat) (holder : Bool) (more : List Byte → Bool) : Bool :=
  match s.executable with
  | none => false
  | some (r, f) =>
    decide (commandCode f.payload = code) && formOk f.payload n && (holdsClaim s r.source == holder) && more f.payload

theorem meets {s : State} {code : Byte} {n : Nat} {holder : Bool} {more : List Byte → Bool}
    (h : meetsAll s code n holder more = true) : Meets s code n holder more := by
  unfold meetsAll at h
  split at h
  · cases h
  · next r f he =>
    simp only [Bool.and_eq_true, decide_eq_true_eq, beq_iff_eq] at h
    obtain ⟨⟨⟨h1, h2⟩, h3⟩, h4⟩ := h
    exact ⟨r, f, he, ⟨h1, h2⟩, by simp [Holder, h3], h4⟩

theorem meets_each {α : Type} {l : List α} {s : α → State} {code : Byte} {n : Nat} {holder : Bool}
    {more : α → List Byte → Bool} (h : l.all (fun a => meetsAll (s a) code n holder (more a)) = true) :
    ∀ a ∈ l, Meets (s a) code n holder (more a) :=
  fun a ha => meets (List.all_eq_true.mp h a ha)

/-- Any payload. -/
def any : List Byte → Bool := fun _ => true

/-- The first argument byte is `n`. -/
def first (n : Nat) : List Byte → Bool := fun b => decide (argByte b 0 = n)

theorem test_witness_IdentifyAndReadStatus :
    Meets (asking running 0x01 0 []) 0x01 0 false any ∧ Meets (asking running 0x02 0 []) 0x02 0 false any :=
  ⟨meets (by decide +kernel), meets (by decide +kernel)⟩

/-- CLAIM of 0 s, of 1 s with no holder and as the holder, of 255 s with another; the others with and without the claim;
addresses EFFFh and F000h. -/
theorem test_witness_ClaimReleaseAddress :
    Meets (asking running 0x03 0 [0]) 0x03 1 false (first 0) ∧ Meets (asking running 0x03 0 [1]) 0x03 1 false (first 1) ∧
    Meets (asking owned 0x03 0 [1]) 0x03 1 true (first 1) ∧
    (Meets (asking (claimedBy running 0x420) 0x03 0 [255]) 0x03 1 false (first 255) ∧
      (asking (claimedBy running 0x420) 0x03 0 [255]).agent.claim = some ⟨0x420, 60, 58000⟩) ∧
    Meets (asking owned 0x04 0 []) 0x04 0 true any ∧ Meets (asking running 0x04 0 []) 0x04 0 false any ∧
    Meets (asking owned 0x05 0 [0xEF, 0xFF]) 0x05 2 true (fun b => isStation (argWord b 0)) ∧
    Meets (asking owned 0x05 0 [0xF0, 0x00]) 0x05 2 true (fun b => !isStation (argWord b 0)) :=
  ⟨meets (by decide +kernel), meets (by decide +kernel), meets (by decide +kernel), ⟨meets (by decide +kernel), by decide +kernel⟩,
    meets (by decide +kernel), meets (by decide +kernel), meets (by decide +kernel), meets (by decide +kernel)⟩

/-- The arguments lie within the ranges of R164. -/
def portArgsInRange (b : List Byte) : Bool :=
  decide (argByte b 2 ≤ 1 ∧ 16 ≤ argHalf b 3 ∧ argHalf b 3 ≤ 384 ∧ 1 ≤ argByte b 7 ∧ argByte b 7 ≤ 60 ∧
    1 ≤ argByte b 8 ∧ argByte b 8 ≤ 16 ∧ 1 ≤ argByte b 9 ∧ argByte b 9 ≤ 16 ∧ 1 ≤ argByte b 10 ∧ argByte b 10 ≤ 16)

/-- Legal SET_PORT arguments for a port and a mode, at the ends of the ranges of quota, block interval and shares. -/
def portArgs (p mode : Byte) : List Byte := [p, mode, 1, 1, 0x80, 255, 255, 60, 16, 16, 1]

/-- The other ends of those ranges. -/
def portArgsLow (p mode : Byte) : List Byte := [p, mode, 0, 0, 16, 0, 0, 1, 1, 1, 16]

/-- The request names port `p` and mode `m`, with arguments within the ranges of R164. -/
def setsPort (p : Port) (m : Nat) : List Byte → Bool :=
  fun b => decide (argByte b 0 = portNumber p) && decide (argByte b 1 = m) && portArgsInRange b

/-- A LOCKED part whose T is ACTIVE. -/
def locked : State := { owned with sync := ⟨true, 20, some 15⟩, meters := { owned.meters with gateOpen := true } }

/-- B1 BLOCKED with a second to run. -/
def blockedB1 : State := owned.setPort .b1 { owned.port .b1 with state := .blocked, blockTimer := some 1000 }

/-- SET_PORT: the mode kept; a change on a branch; DISABLED from BLOCKED; DISABLED in service, on a branch, on T in LISTEN, and
on T in ACTIVE, UNLOCKED and LOCKED; T from ACTIVE to LISTEN, UNLOCKED and LOCKED; quota 15; mode 3. READ_PORT: parts 0 to 5,
plain and clearing. -/
theorem test_witness_PortCommands :
    (Meets (asking owned 0x06 0 (portArgs 1 2)) 0x06 11 true (setsPort .b1 2) ∧
      (owned.port .b1).state = Mode.active.toState) ∧
    (Meets (asking owned 0x06 0 (portArgs 1 1)) 0x06 11 true (setsPort .b1 1) ∧
      (owned.port .b1).state ≠ Mode.listen.toState) ∧
    (Meets (asking blockedB1 0x06 0 (portArgs 1 0)) 0x06 11 true (setsPort .b1 0) ∧
      (blockedB1.port .b1).state = .blocked) ∧
    (Meets (asking owned 0x06 0 (portArgs 1 0)) 0x06 11 true (setsPort .b1 0) ∧ owned.inService .b1 = true ∧
      owned.device.restartMark = none) ∧
    (Meets (asking owned 0x06 0 (portArgs 0 0)) 0x06 11 true (setsPort .t 0) ∧ (owned.port .t).state = .active ∧
      owned.sync.locked = false ∧ (inMode owned .t .listen).inService .t = true ∧
      Meets (asking locked 0x06 0 (portArgs 0 0)) 0x06 11 true (setsPort .t 0)) ∧
    Meets (asking owned 0x06 0 (portArgs 0 1)) 0x06 11 true (setsPort .t 1) ∧
    (Meets (asking locked 0x06 0 (portArgs 0 1)) 0x06 11 true (setsPort .t 1) ∧ (locked.port .t).state = .active ∧
      locked.sync.locked = true ∧ locked.meters.gateOpen = true) ∧
    Meets (asking owned 0x06 0 [1, 2, 1, 0, 15, 0, 0, 5, 4, 2, 1]) 0x06 11 true
      (fun b => decide (argByte b 0 = portNumber .b1) && !portArgsInRange b) ∧
    Meets (asking owned 0x06 0 (portArgsLow 1 2)) 0x06 11 true (setsPort .b1 2) ∧
    Meets (asking owned 0x06 0 (portArgs 1 3)) 0x06 11 true (setsPort .b1 3) ∧
    (∀ part ∈ [(0 : Byte), 1, 2, 3, 4, 5],
      Meets (asking running 0x07 0 [2, part]) 0x07 2 false
        (fun b => !clearFlag b && decide (argByte b 0 = portNumber .b2) && decide (argByte b 1 = part.toNat))) ∧
    ∀ part ∈ [(0 : Byte), 1, 2, 3],
      Meets (asking owned 0x07 1 [2, part]) 0x07 2 true
        (fun b => clearFlag b && decide (argByte b 0 = portNumber .b2) && decide (argByte b 1 = part.toNat)) := by
  refine ⟨⟨meets (by decide +kernel), by decide⟩, ⟨meets (by decide +kernel), by decide⟩,
    ⟨meets (by decide +kernel), by decide⟩, ⟨meets (by decide +kernel), by decide, by decide⟩,
    ⟨meets (by decide +kernel), by decide, by decide, by decide, meets (by decide +kernel)⟩, meets (by decide +kernel),
    ⟨meets (by decide +kernel), by decide, by decide, by decide⟩, meets (by decide +kernel), meets (by decide +kernel), meets (by decide +kernel), ?_, ?_⟩
  · exact meets_each (by decide +kernel)
  · exact meets_each (by decide +kernel)

/-- `owned` while a copy runs. -/
def copying : State := { owned with rules := { owned.rules with copying := true } }

/-- A legal rule record: ALL on every port, kind 2 under a full mask, DROP. -/
def record : List Byte := [0b00001001, 0x1F, 0x02, 0, 0, 2, 0xFF, 0xFF, 0x01, 0, 0, 0, 0, 0]

/-- The request is a WRITE_RULE of position `n` whose record is read with this outcome. -/
def writes (n : Nat) (legal : Bool) : List Byte → Bool :=
  fun b => decide (argByte b 0 = n) && formOk b (1 + recordLength ((arguments b).drop 1)) &&
    recordReservedClear ((arguments b).drop 1) &&
    ((firstFailure ((arguments b).drop 1)).isNone == legal) &&
    (match readRuleRecord ((arguments b).drop 1) with | .ok _ => legal | .error _ => !legal)

/-- WRITE_RULE of a legal record at position 127, of an illegal one, at position 128, with a must-be-zero bit; CLEAR_RULE of
127, 128, 254 and 255; both outcomes of the header; READ_RULE of each bank at 127 and 128. -/
theorem test_witness_RuleCommands :
    owned.rules.copying = false ∧ Meets (asking owned 0x0A 0 (127 :: record)) 0x0A 3 true (writes 127 true) ∧
    Meets (asking owned 0x0A 0 (127 :: 0x09 :: 0 :: record.drop 2)) 0x0A 3 true (writes 127 false) ∧
    Meets (asking owned 0x0A 0 (128 :: record)) 0x0A 3 true (writes 128 true) ∧
    Meets (asking owned 0x0A 0 (0 :: 0x09 :: 0x3F :: record.drop 2)) 0x0A 3 true
      (fun b => !recordReservedClear ((arguments b).drop 1)) ∧
    (∀ n ∈ [(127 : Byte), 128, 254, 255], Meets (asking owned 0x0B 0 [n]) 0x0B 1 true (first n.toNat)) ∧
    Meets (asking owned 0x08 0 [0x41]) 0x08 1 true (fun b => decide (argByte b 0 = headerCode ⟨.drop, some .b4⟩)) ∧
    (Meets (asking owned 0x08 0 [0xFF]) 0x08 1 true (first 255) ∧ ∀ h, headerCode h ≠ 255) ∧
    (∀ x ∈ [((0 : Byte), (127 : Byte)), (0, 128), (1, 127), (1, 128)],
      Meets (asking running 0x0C 0 [x.1, x.2]) 0x0C 2 false
        (fun b => decide (argByte b 0 = x.1.toNat) && decide (argByte b 1 = x.2.toNat))) ∧
    Meets (asking copying 0x0C 0 [0, 127]) 0x0C 2 true (first 0) := by
  refine ⟨by decide, meets (by decide +kernel), meets (by decide +kernel), meets (by decide +kernel), meets (by decide +kernel),
    ?_, meets (by decide +kernel), ⟨meets (by decide +kernel), ?_⟩, ?_, meets (by decide +kernel)⟩
  · exact meets_each (by decide +kernel)
  · rintro ⟨v, o⟩
    cases v <;> rcases o with _ | p <;> first | decide | (cases p <;> decide)
  · exact meets_each (by decide +kernel)

theorem test_witness_BankCommands :
    (owned.rules.copying = false ∧ Meets (asking owned 0x0D 0 []) 0x0D 0 true any ∧
      Meets (asking owned 0x0E 0 [0, 0]) 0x0E 2 true (fun b => decide (argWord b 0 = owned.rules.generation)) ∧
      Meets (asking owned 0x0E 0 [0, 1]) 0x0E 2 true (fun b => decide (argWord b 0 ≠ owned.rules.generation))) ∧
    (copying.rules.copying = true ∧ Meets (asking copying 0x0D 0 []) 0x0D 0 true any ∧
      Meets (asking copying 0x0E 0 [0, 0]) 0x0E 2 true any ∧ Meets (asking copying 0x08 0 [5]) 0x08 1 true any ∧
      Meets (asking copying 0x0B 0 [5]) 0x0B 1 true any ∧
      Meets (asking copying 0x0A 0 (127 :: record)) 0x0A 3 true (writes 127 true) ∧
      Meets (asking copying 0x0C 0 [1, 127]) 0x0C 2 true (fun b => first 1 b && decide (argByte b 1 = 127))) :=
  ⟨⟨by decide, meets (by decide +kernel), meets (by decide +kernel), meets (by decide +kernel)⟩,
    by decide, meets (by decide +kernel), meets (by decide +kernel), meets (by decide +kernel), meets (by decide +kernel),
    meets (by decide +kernel), meets (by decide +kernel)⟩

/-- `owned` with the table of 3.9. -/
def tabled : State := { owned with stations := example39.stations }

/-- WRITE_STATION: an entry that is there, a new one at 255 entries and at 256, a bad address, ports 4 and 5. DELETE_STATION
and READ_STATION: found, not found, no station. FLUSH_STATIONS: 4, 5, 254 and 255. READ_STATION by index: 255 and 256.
SET_AGING: 1 and 4095 s, 0 and 4096, threshold 0. -/
theorem test_witness_StationCommands :
    (Meets (asking tabled 0x0F 0 [0x02, 0x20, 4]) 0x0F 3 true (fun b => isStation (argWord b 0) && decide (argByte b 2 = portNumber .b4)) ∧
      tabled.station 0x220 ≠ none ∧
      (withStations owned (pinnedTable 255)).stations.entries.length < 256 ∧
      ((withStations owned (pinnedTable 256)).station 0x220 = none ∧
        256 ≤ (withStations owned (pinnedTable 256)).stations.entries.length) ∧
      Meets (asking tabled 0x0F 0 [0xF0, 0x00, 4]) 0x0F 3 true (fun b => !isStation (argWord b 0)) ∧
      Meets (asking tabled 0x0F 0 [0x02, 0x20, 5]) 0x0F 3 true (fun b => decide (4 < argByte b 2))) ∧
    (Meets (asking tabled 0x10 0 [0x02, 0x20]) 0x10 2 true (fun b => (tabled.station (argWord b 0)).isSome) ∧
      Meets (asking tabled 0x10 0 [0x02, 0x21]) 0x10 2 true (fun b => isStation (argWord b 0) && (tabled.station (argWord b 0)).isNone) ∧
      Meets (asking tabled 0x10 0 [0, 0]) 0x10 2 true (fun b => !isStation (argWord b 0))) ∧
    (∀ n ∈ [(4 : Byte), 5, 254, 255], Meets (asking tabled 0x11 0 [n]) 0x11 1 true (first n.toNat)) ∧
    (Meets (asking tabled 0x1A 0 [0, 0x02, 0x20]) 0x1A 3 true (fun b => first 0 b && (tabled.station (argWord b 1)).isSome) ∧
      Meets (asking tabled 0x1A 0 [0, 0x02, 0x21]) 0x1A 3 true
        (fun b => first 0 b && isStation (argWord b 1) && (tabled.station (argWord b 1)).isNone) ∧
      Meets (asking tabled 0x1A 0 [0, 0xFF, 0xFF]) 0x1A 3 true (fun b => first 0 b && !isStation (argWord b 1))) ∧
    (Meets (asking tabled 0x1A 0 [1, 0, 255]) 0x1A 3 true (fun b => first 1 b && decide (argHalf b 1 = 255)) ∧
      Meets (asking tabled 0x1A 0 [1, 1, 0]) 0x1A 3 true (fun b => first 1 b && decide (argHalf b 1 = 256))) ∧
    (∀ x ∈ [((0 : Byte), (1 : Byte)), (0x0F, 0xFF), (0, 0), (0x10, 0)],
      Meets (asking tabled 0x12 0 [x.1, x.2, 1]) 0x12 3 true (fun b => decide (argByte b 2 = 1) && decide (argWord b 0 = wordOf x.1 x.2))) ∧
    Meets (asking tabled 0x12 0 [0, 1, 0]) 0x12 3 true (fun b => decide (argByte b 2 = 0)) := by
  refine ⟨⟨meets (by decide +kernel), by decide +kernel, by decide +kernel, by decide +kernel, meets (by decide +kernel),
      meets (by decide +kernel)⟩,
    ⟨meets (by decide +kernel), meets (by decide +kernel), meets (by decide +kernel)⟩, ?_,
    ⟨meets (by decide +kernel), meets (by decide +kernel), meets (by decide +kernel)⟩,
    ⟨meets (by decide +kernel), meets (by decide +kernel)⟩, ?_, meets (by decide +kernel)⟩
  · exact meets_each (by decide +kernel)
  · exact meets_each (by decide +kernel)

/-- SET_METER of meter 31 in each mode, of meter 32, in mode 4, with a ceiling of 0; REARM_METER of a SINGLE meter, of another,
of meter 32; both reads at 31 and 32. -/
theorem test_witness_MeterCommands :
    (∀ mode ∈ [(0 : Byte), 1, 2, 3, 4],
      Meets (asking owned 0x19 0 [31, mode, 0xFF, 0xFF, 0, 1, 0, 1, 1, 1]) 0x19 10 true
        (fun b => first 31 b && decide (argByte b 1 = mode.toNat) && decide (argHalf b 2 = 65535) && decide (argHalf b 4 = 1) &&
          decide (argHalf b 6 = 1) && decide (argByte b 8 ≤ 1) && decide (argByte b 9 ≤ 1))) ∧
    Meets (asking owned 0x19 0 [32, 1, 0, 8, 0, 1, 0, 1, 0, 0]) 0x19 10 true (first 32) ∧
    Meets (asking owned 0x19 0 [31, 1, 0, 0, 0, 1, 0, 1, 0, 0]) 0x19 10 true (fun b => decide (argHalf b 2 = 0)) ∧
    (Meets (asking (withMeter12 owned (example47.meter 12)) 0x13 0 [12]) 0x13 1 true (first 12) ∧
      ((withMeter12 owned (example47.meter 12)).meter 12).mode = .single) ∧
    (Meets (asking owned 0x13 0 [12]) 0x13 1 true (first 12) ∧ (owned.meter 12).mode ≠ .single) ∧
    Meets (asking owned 0x13 0 [32]) 0x13 1 true (first 32) ∧
    (∀ n ∈ [(31 : Byte), 32], Meets (asking running 0x14 0 [n]) 0x14 1 false (fun b => first n.toNat b && !clearFlag b)) ∧
    ∀ n ∈ [(31 : Byte), 32], Meets (asking owned 0x14 1 [n]) 0x14 1 true (fun b => first n.toNat b && clearFlag b) := by
  refine ⟨?_, meets (by decide +kernel), meets (by decide +kernel), ⟨meets (by decide +kernel), by decide +kernel⟩,
    ⟨meets (by decide +kernel), by decide +kernel⟩, meets (by decide +kernel), ?_, ?_⟩
  · exact meets_each (by decide +kernel)
  · exact meets_each (by decide +kernel)
  · exact meets_each (by decide +kernel)

/-- Timeouts 0, 1 and 255, and a station that does not hold the claim. -/
theorem test_witness_SetSync :
    Meets (asking running 0x15 0 [1]) 0x15 1 false any ∧
      ∀ n ∈ [(0 : Byte), 1, 255], Meets (asking owned 0x15 0 [n]) 0x15 1 true (first n.toNat) :=
  ⟨meets (by decide +kernel), meets_each (by decide +kernel)⟩

/-- A part whose notice target is the requester, with METER_SPENT in service as notice 41. -/
def acknowledging : State :=
  let s := running.setSource .meterSpent ⟨true, false, 0, 12, some ⟨41, 1, 1, 12⟩, some 1, false⟩
  { s with notices := { s.notices with target := 0x310, port := .b2 } }

/-- SET_NOTICE with the target kept and changed, with target 0000h, port 5, a target that is no station, interval 0.
NOTICE_ACK with no target, of sequence 0, of an unknown one, of the one in service. -/
theorem test_witness_NoticeCommands :
    (Meets (asking owned 0x16 0 [0, 0, 0, 0xFF, 255]) 0x16 5 true
        (fun b => decide (argWord b 0 = owned.notices.target) && decide (argByte b 2 = portNumber owned.notices.port) && decide (argByte b 4 ≠ 0)) ∧
      Meets (asking owned 0x16 0 [0xEF, 0xFF, 4, 0xFF, 1]) 0x16 5 true
        (fun b => isStation (argWord b 0) && decide (argByte b 2 = portNumber .b4) && decide (argWord b 0 ≠ owned.notices.target)) ∧
      Meets (asking owned 0x16 0 [0, 1, 5, 0, 1]) 0x16 5 true (fun b => decide (4 < argByte b 2)) ∧
      Meets (asking owned 0x16 0 [0xF0, 0, 4, 0, 1]) 0x16 5 true (fun b => decide (argWord b 0 ≠ 0) && !isStation (argWord b 0)) ∧
      Meets (asking owned 0x16 0 [0, 1, 4, 0, 0]) 0x16 5 true (fun b => decide (argByte b 4 = 0))) ∧
    (Meets (asking running 0x17 0 [41]) 0x17 1 false any ∧ running.notices.target = 0) ∧
    (∀ n ∈ [(0 : Byte), 40, 41], Meets (asking acknowledging 0x17 0 [n]) 0x17 1 false (first n.toNat)) ∧
    acknowledging.notices.target = 0x310 ∧ (acknowledging.source .meterSpent).record = some ⟨41, 1, 1, 12⟩ ∧
    (∀ q ∈ allSources, q ≠ .meterSpent → (acknowledging.source q).record = none) ∧ SequencesOk acknowledging := by
  refine ⟨⟨meets (by decide +kernel), meets (by decide +kernel), meets (by decide +kernel), meets (by decide +kernel),
    meets (by decide +kernel)⟩, ⟨meets (by decide +kernel), by decide⟩, ?_, by decide, by decide, by decide, ?_, ?_⟩
  · exact meets_each (by decide +kernel)
  · have only : ∀ q x, (acknowledging.source q).record = some x → q = .meterSpent := by
      intro q x hx
      cases q <;> cases hx
      rfl
    intro q r x y hx hy _
    exact (only q x hx).trans (only r y hy).symm
  · intro q x hx
    cases q <;> cases hx
    decide

theorem test_witness_RestartTraffic :
    Meets (asking owned 0x18 0 [1]) 0x18 1 true (first 1) ∧ owned.device.restartMark = none ∧
    (let s := carrying (asking owned 0x18 0 [1])
     Meets s 0x18 1 true (first 1) ∧ SlotsOk s ∧ HeldOk s ∧ allEgressRefs s 5 = 1 ∧ allEgressRefs s 0 = 0) := by
  refine ⟨meets (by decide +kernel), by decide, meets (by decide +kernel), ?_, fun p => by cases p <;> decide +kernel,
    by decide +kernel, by decide +kernel⟩
  unfold SlotsOk keysBelow
  decide +kernel

/-- The reply can be placed in the one state, and finds no free slot in the other. -/
theorem test_witness_RestartFull :
    Meets (asking owned 0x18 0 [0]) 0x18 1 true (first 0) ∧ owned.device.restartMark = none ∧
      owned.device.restartDue = false ∧ (asking owned 0x18 0 [0]).lowestFreeSlot = some 1 ∧
      (asking owned 0x18 0 [0]).inService .b2 = true ∧ (asking owned 0x18 0 [0]).queueFull .b2 3 = false ∧
      replyCannotBePlaced (exhausted owned) .b2 :=
  ⟨meets (by decide +kernel), by decide, by decide, by decide +kernel, by decide, by decide, Or.inl (exhausted_has_no_free_slot _)⟩

/-- The execution position of `s` after `asking` holds a request with this code, flags and arguments, from the holder or
not. -/
def Asked (s : State) (code flags : Byte) (args : List Byte) (holder : Bool) : Prop :=
  ∃ r f, Executing (asking s code flags args) r f ∧ commandCode f.payload = code ∧ flagsByte f.payload = flags ∧
    arguments f.payload = args ∧ (Holder (asking s code flags args) r ↔ holder = true)

theorem asked (s : State) (code flags : Byte) (args : List Byte) (hd : s.device.resetHeld = false)
    (hr : s.device.state = .running) : Asked s code flags args (holdsClaim s 0x310) := by
  refine ⟨⟨0x310, 22, .b2, 0⟩, frame 0xE000 0x310 .mgmt ([0, 22, code, flags] ++ args), ?_, rfl, rfl, rfl, ?_⟩
  · simp [Executing, State.executable, asking, hd, hr, State.slot, lookup]
  · simp [Holder, asking, holdsClaim]

/-- Each unknown code; every claim command without the claim, and with it under a must-be-zero flag; the commands that need
none under such a flag; both reads; READ_STATION without its form and with form 2; RESTART without the claim, and with it
without its kind and with kind 2; a bare NOTICE_ACK; a cut-off record; port 5; bank 2. -/
theorem test_witness_RefusedRequests :
    (∀ code ∈ [(0 : Byte), 0x09, 0x1B, 0xFF], Asked running code 0 [] false) ∧
    (∀ c ∈ claimCommands, Asked running c.2.1 0 [] false ∧ Asked owned c.2.1 2 [] true) ∧
    (∀ c ∈ openCommands, Asked running c.2.1 0x80 [] false) ∧
    (∀ c ∈ readCommands, Asked running c.2.2.1 0 [] false ∧ Asked running c.2.2.1 1 [] false ∧ Asked owned c.2.2.1 1 [] true) ∧
    (Asked running 0x1A 0 [] false ∧ Asked running 0x1A 0 [2, 0, 0] false ∧ Asked running 0x1A 0 [1] false) ∧
    (Asked running 0x18 0 [0] false ∧ Asked running 0x18 0 [1] false) ∧
    (Asked owned 0x18 0 [] true ∧ Asked owned 0x18 0 [2] true) ∧
    (Asked acknowledging 0x17 0 [] false ∧ acknowledging.notices.target = 0x310) ∧
    Asked owned 0x0A 0 (0 :: record.take 8) true ∧
    (Asked owned 0x06 0 (portArgs 5 1) true ∧ Asked running 0x07 0 [5, 0] false ∧ Asked owned 0x07 1 [5, 1] true) ∧
    Asked running 0x0C 0 [2, 0] false :=
  ⟨fun code _ => asked running code 0 [] rfl rfl,
    fun c _ => ⟨asked running c.2.1 0 [] rfl rfl, asked owned c.2.1 2 [] rfl rfl⟩,
    fun c _ => asked running c.2.1 0x80 [] rfl rfl,
    fun c _ => ⟨asked running c.2.2.1 0 [] rfl rfl, asked running c.2.2.1 1 [] rfl rfl, asked owned c.2.2.1 1 [] rfl rfl⟩,
    ⟨asked running 0x1A 0 _ rfl rfl, asked running 0x1A 0 _ rfl rfl, asked running 0x1A 0 _ rfl rfl⟩,
    ⟨asked running 0x18 0 _ rfl rfl, asked running 0x18 0 _ rfl rfl⟩,
    ⟨asked owned 0x18 0 _ rfl rfl, asked owned 0x18 0 _ rfl rfl⟩, ⟨asked acknowledging 0x17 0 _ rfl rfl, by decide⟩,
    asked owned 0x0A 0 _ rfl rfl,
    ⟨asked owned 0x06 0 _ rfl rfl, asked running 0x07 0 _ rfl rfl, asked owned 0x07 1 _ rfl rfl⟩,
    asked running 0x0C 0 _ rfl rfl⟩

/-- What the requests of `test_witness_RefusedRequests` lack: bytes of arguments, a record's last bytes, a range. -/
theorem test_witness_RefusedRequests_arguments :
    (∀ c ∈ claimCommands, formOk [0, 22, c.2.1, 2] c.2.2 = false) ∧
    (∀ c ∈ openCommands, formOk [0, 22, c.2.1, 0x80] c.2.2 = false) ∧
    (∀ c ∈ readCommands, formOk [0, 22, c.2.2.1, 0] c.2.2.2 = false) ∧
    formOk [0, 22, 0x1A, 0] 3 = false ∧ 1 < argByte [0, 22, 0x1A, 0, 2, 0, 0] 0 ∧
    formOk [0, 22, 0x18, 0] 1 = false ∧ 1 < argByte [0, 22, 0x18, 0, 2] 0 ∧ formOk [0, 22, 0x17, 0] 1 = false ∧
    formOk ([0, 22, 0x0A, 0, 0] ++ record.take 8) 3 = true ∧
    formOk ([0, 22, 0x0A, 0, 0] ++ record.take 8) (1 + recordLength (record.take 8)) = false ∧
    4 < argByte ([0, 22, 0x06, 0] ++ portArgs 5 1) 0 ∧ 1 < argByte [0, 22, 0x0C, 0, 2, 0] 0 := by decide +kernel

/-- B2 SENDING in the one state, IDLE with empty queues in the other. -/
theorem test_witness_ReplyIsPlaced :
    let s := asking running 0x01 0 []
    Meets s 0x01 0 false any ∧ SlotsOk s ∧ s.lowestFreeSlot = some 1 ∧ s.inService .b2 = true ∧
      (s.port .b2).egress.q3.length < 32 ∧ (s.port .b2).egress.transmitter = none ∧ (s.port .b2).egress.queued = 0 ∧
      Meets (asking (sending running .b2 9) 0x01 0 []) 0x01 0 false any ∧
      ((sending running .b2 9).port .b2).egress.transmitter = some 9 ∧ (s.slot 0).isSome = true := by
  refine ⟨meets (by decide +kernel), ⟨by decide +kernel, ?_⟩, by decide +kernel, by decide, by decide, by decide, by decide,
    meets (by decide +kernel), by decide, by decide +kernel⟩
  intro e he
  simp only [asking, List.mem_singleton] at he
  subst he
  decide

/-! ## Witnesses: invariants -/

/-- A part in RUNNING with a claim, a pinned station, a rule, a meter in use, a frame held by its executing request, and the
execution event in front. -/
def busy : State :=
  { asking { owned with
      rules := ⟨⟨.swept, [(5, ⟨rule5, 7⟩)]⟩, .swept, .a, 12, false⟩
      stations := example39.stations
      meters := { owned.meters with meters := owned.meters.meters.set 12 (example47.meter 12) } } 0x01 0 [] with
    pending := [.identify] }

theorem test_witness_invariants_stores : SlotsOk busy ∧ StationsOk busy ∧ HeldOk busy := by
  refine ⟨⟨by decide +kernel, ?_⟩, by unfold StationsOk; decide, fun p => by cases p <;> decide +kernel⟩
  intro e he
  simp only [busy, asking, List.mem_singleton] at he
  subst he
  decide

theorem test_witness_invariants_banks : BanksOk busy ∧ RulesOk busy := by
  refine ⟨⟨⟨by decide, ?_⟩, by decide, fun e he => nomatch he⟩, ?_, fun e he => nomatch he⟩
  · intro e he
    simp only [busy, asking, List.mem_singleton] at he
    subst he
    decide
  · intro e he
    simp only [busy, asking, List.mem_singleton] at he
    subst he
    exact test_rule5_is_ok

theorem test_witness_invariants_meters : MetersOk busy ∧ ArmOk busy ∧ PeriodTimersOk busy := by
  unfold MetersOk ArmOk PeriodTimersOk
  decide +kernel

theorem test_witness_invariants_ports : PortStatesOk busy ∧ GateOk busy ∧ SyncTimerOk busy := by
  refine ⟨⟨fun p => by cases p <;> exact .inl rfl, by decide⟩, by unfold GateOk; decide, rfl⟩

theorem test_witness_invariants_egresses : QueuesOk busy ∧ IdleIsEmpty busy ∧ OutOfServiceOk busy := by
  refine ⟨fun p => by cases p <;> decide, fun p => ?_, fun p h => ?_⟩
  · unfold EgressOk
    cases p <;> decide
  · cases p <;> cases h

theorem test_witness_invariants_agent : AgentDepthsOk busy ∧ KeysOk busy ∧ AddressOk busy ∧ SequencesOk busy := by
  have none (q : Source) : (busy.source q).record = none := by cases q <;> rfl
  refine ⟨by unfold AgentDepthsOk; decide, by unfold KeysOk; decide, by unfold AddressOk; decide, ?_, ?_⟩
  · intro q r x y hx
    rw [none q] at hx
    cases hx
  · intro q x hx
    rw [none q] at hx
    cases hx

theorem test_witness_invariants_references : RefsOk busy := by
  show ∀ n, refCount busy n = holders busy n ∧ ∀ x, busy.slot n = some x → 1 ≤ x.refs
  intro n
  cases n with
  | zero => exact ⟨by decide +kernel, fun x hx => by cases hx; decide⟩
  | succ n =>
    refine ⟨?_, fun x hx => by cases hx⟩
    simp [refCount, holders, portHolds, egressRefs, queuedSlots, busy, asking, State.slot, lookup, owned, claimedBy, running,
      State.reset, PortUnit.fresh, Egress.fresh, State.port, PerPort.get, Agent.fresh]

/-- `busy` meets the hypotheses of the second part of ReplyIsPlaced: an IDENTIFY is in the execution position. -/
theorem test_witness_ReplyIsPlaced_every_row : ∃ r f, Executing busy r f ∧ SlotsOk busy ∧ RefsOk busy :=
  ⟨⟨0x310, 22, .b2, 0⟩, frame 0xE000 0x310 .mgmt [0, 22, 1, 0], rfl, test_witness_invariants_stores.1,
    test_witness_invariants_references⟩

theorem test_witness_invariants_step : ∃ t, step busy = .next t := ⟨_, rfl⟩

end Sys2Proof.Tests
end

section
/-! SUPPORT. The Rule List's evaluation (1.2, 1.3), one law per definition: the field of each selector, when a term holds,
when a rule decides, what the list decides, and what a default's action leaves as it is; and the statements that follow from
these laws. -/

namespace Sys2Proof.Machine

open Sys2Proof.Safety

/-! ## The field of a selector (R6) -/

section Fields

variable {f : Frame} {t : Term}

/-- The pair of two bytes, the high one first, as a number. -/
theorem wordOf_eq_ofNat (a b : Byte) : wordOf a b = BitVec.ofNat 16 (a.toNat * 256 + b.toNat) := by
  apply BitVec.eq_of_toNat_eq
  have ha := a.isLt
  have hb := b.isLt
  have hcat : (wordOf a b).toNat = a.toNat * 256 + b.toNat := by
    unfold wordOf
    rw [BitVec.toNat_append, ← Nat.shiftLeft_add_eq_or_of_lt hb, Nat.shiftLeft_eq]
  rw [hcat, BitVec.toNat_ofNat, Nat.mod_eq_of_lt (by omega)]

theorem fieldOf_dest (h : t.selector = .dest) : fieldOf f t = some (BitVec.ofNat 16 f.dest.toNat) := by
  simp [fieldOf, h]

theorem fieldOf_source (h : t.selector = .source) : fieldOf f t = some (BitVec.ofNat 16 f.src.toNat) := by
  simp [fieldOf, h]

theorem fieldOf_kind (h : t.selector = .kind) :
    fieldOf f t = some (BitVec.ofNat 16 (kindCode f.kind).toNat) := by
  simp [fieldOf, h, BitVec.ofNat_toNat]

theorem fieldOf_cls (h : t.selector = .cls) : fieldOf f t = some (BitVec.ofNat 16 f.cls.toNat) := by
  simp [fieldOf, h, BitVec.ofNat_toNat]

theorem fieldOf_hops (h : t.selector = .hops) : fieldOf f t = some (BitVec.ofNat 16 f.hops.toNat) := by
  simp [fieldOf, h, BitVec.ofNat_toNat]

theorem fieldOf_length (h : t.selector = .length) : fieldOf f t = some (BitVec.ofNat 16 f.payload.length) := by
  simp [fieldOf, h]

theorem fieldOf_seq (h : t.selector = .seq) : fieldOf f t = some (BitVec.ofNat 16 f.seq.toNat) := by
  simp [fieldOf, h, BitVec.ofNat_toNat]

theorem fieldOf_tag (h : t.selector = .tag) : fieldOf f t = f.tag.map (fun v => BitVec.ofNat 16 v.toNat) := by
  simp [fieldOf, h, BitVec.ofNat_toNat]

theorem fieldOf_payload (h : t.selector = .payload) (hlen : t.offset.toNat + 1 < f.payload.length) :
    fieldOf f t = some (BitVec.ofNat 16
      ((byteAt f.payload t.offset.toNat).toNat * 256 + (byteAt f.payload (t.offset.toNat + 1)).toNat)) := by
  simp [fieldOf, h, hlen, wordAt, wordOf_eq_ofNat]

/-- A payload that ends at or before the second byte of the pair gives no field (R7). -/
theorem fieldOf_payload_short (h : t.selector = .payload) (hlen : f.payload.length ≤ t.offset.toNat + 1) :
    fieldOf f t = none := by
  simp [fieldOf, h, Nat.not_lt.mpr hlen]

/-! ## When a term holds (R5, R7) -/

/-- Without a field no sense lets the term hold. -/
theorem holds_of_fieldOf_none (h : fieldOf f t = none) : t.holds f = false := by
  simp [Term.holds, h]

/-- With a field the sense and the masked comparison decide. -/
theorem holds_of_fieldOf {x : Word} (h : fieldOf f t = some x) :
    (t.sense = .equal → (t.holds f = true ↔ x &&& t.mask = t.value &&& t.mask)) ∧
      (t.sense = .differ → (t.holds f = true ↔ x &&& t.mask ≠ t.value &&& t.mask)) := by
  exact ⟨fun hs => by simp [Term.holds, h, hs], fun hs => by simp [Term.holds, h, hs]⟩

/-- The test of the tagged flag: under mask 0 every tag equals every value. -/
theorem holds_tag_mask_zero (h : t.selector = .tag) (hs : t.sense = .equal) (hm : t.mask = 0) :
    t.holds f = f.tag.isSome := by
  cases htag : f.tag with
  | none => exact holds_of_fieldOf_none (by rw [fieldOf_tag h, htag, Option.map_none])
  | some v =>
    have hfield : fieldOf f t = some (BitVec.ofNat 16 v.toNat) := by rw [fieldOf_tag h, htag, Option.map_some]
    exact ((holds_of_fieldOf hfield).1 hs).mpr (by simp [hm])

end Fields

/-! ## When a rule decides (R8) -/

section Modes

variable {f : Frame} {r : Rule}

theorem decides_all (h : r.mode = .all) :
    r.decides f = if ∀ t ∈ r.terms, t.holds f = true then r.actions[0]? else none := by
  simp [Rule.decides, h, List.all_eq_true]

theorem decides_any (h : r.mode = .any) :
    r.decides f = if ∃ t ∈ r.terms, t.holds f = true then r.actions[0]? else none := by
  simp [Rule.decides, h, List.any_eq_true]

/-- FIRSTOF: the lowest-numbered term that holds names the action. -/
theorem decides_firstOf (h : r.mode = .firstOf) :
    r.decides f = (r.terms.findIdx? (Term.holds f)).bind (fun k => r.actions[k]?) := by
  simp only [Rule.decides, h]
  cases r.terms.findIdx? (Term.holds f) <;> rfl

theorem decides_firstOf_of_none (h : r.mode = .firstOf) (hnone : ∀ t ∈ r.terms, t.holds f = false) :
    r.decides f = none := by
  rw [decides_firstOf h, List.findIdx?_eq_none_iff.mpr hnone, Option.bind_none]

theorem decides_firstOf_of_first (h : r.mode = .firstOf) {k : Nat} {t : Term} (hk : r.terms[k]? = some t)
    (ht : t.holds f = true) (hlow : ∀ (j : Nat) (u : Term), j < k → r.terms[j]? = some u → u.holds f = false) :
    r.decides f = r.actions[k]? := by
  obtain ⟨hlt, hget⟩ := List.getElem?_eq_some_iff.mp hk
  have hfirst : r.terms.findIdx? (Term.holds f) = some k := by
    refine List.findIdx?_eq_some_iff_getElem.mpr ⟨hlt, by rw [hget]; exact ht, fun j hj => ?_⟩
    rw [hlow j _ hj (List.getElem?_eq_getElem (Nat.lt_trans hj hlt))]
    exact Bool.false_ne_true
  rw [decides_firstOf h, hfirst, Option.bind_some]

/-- Each term of a legal FIRSTOF rule has its action. -/
theorem action_isSome_firstOf (hr : RuleOk r) (h : r.mode = .firstOf) {k : Nat} (hk : k < r.terms.length) :
    (r.actions[k]?).isSome = true := by
  obtain ⟨-, -, hlen, -⟩ := hr
  rw [if_pos h] at hlen
  simp [hlen, hk]

/-- A legal rule of any mode has action 0. -/
theorem action_isSome_zero (hr : RuleOk r) : (r.actions[0]?).isSome = true := by
  obtain ⟨hone, -, hlen, -⟩ := hr
  have hpos : 0 < r.actions.length := by
    rw [hlen]
    split <;> omega
  simp [hpos]

/-- In ANY and in FIRSTOF mode one term that holds lets a legal rule match, whatever the others do. -/
theorem decides_isSome_of_holds {t : Term} (hr : RuleOk r) (hmem : t ∈ r.terms) (ht : t.holds f = true)
    (hmode : r.mode ≠ .all) : (r.decides f).isSome = true := by
  cases h : r.mode with
  | all => exact absurd h hmode
  | any => rw [decides_any h, if_pos ⟨t, hmem, ht⟩]; exact action_isSome_zero hr
  | firstOf =>
    have hsome : (r.terms.findIdx? (Term.holds f)).isSome = true := by
      rw [List.findIdx?_isSome]
      exact List.any_eq_true.mpr ⟨t, hmem, ht⟩
    obtain ⟨k, hk⟩ := Option.isSome_iff_exists.mp hsome
    obtain ⟨hlt, -⟩ := List.findIdx?_eq_some_iff_getElem.mp hk
    rw [decides_firstOf h, hk, Option.bind_some]
    exact action_isSome_firstOf hr h hlt

/-- With one term the lowest term that holds, and every term, are that term. -/
theorem decides_firstOf_single (h : r.mode = .firstOf) (hlen : r.terms.length = 1) :
    r.decides f = Rule.decides f { r with mode := .all } := by
  obtain ⟨t, hterms⟩ := List.length_eq_one_iff.mp hlen
  rw [decides_firstOf h, decides_all (r := { r with mode := .all }) rfl]
  cases ht : t.holds f <;> simp [hterms, ht]

end Modes

/-! ## The default (R11, R12) -/

/-- A list in which no considered rule matches gives no first match. -/
theorem firstMatch_eq_none {p : Port} {f : Frame} {l : List (Nat × Position)}
    (h : ∀ e ∈ l, inPortSet p e.2.rule.arrival = true → e.2.rule.decides f = none) : firstMatch p f l = none := by
  induction l with
  | nil => rfl
  | cons e rest ih =>
    obtain ⟨hhead, hrest⟩ := List.forall_mem_cons.mp h
    unfold firstMatch
    split
    next hconsidered => rw [hhead hconsidered]; exact ih hrest
    next => exact ih hrest

theorem evaluate_of_no_match {s : State} {p : Port} {f : Frame}
    (h : ∀ e ∈ (s.rules.bank s.rules.working).positions, inPortSet p e.2.rule.arrival = true →
      e.2.rule.decides f = none) :
    evaluate p f s = ⟨defaultAction (s.rules.bank s.rules.working).header.verdict, none,
      (s.rules.bank s.rules.working).header.observation⟩ := by
  simp only [evaluate, firstMatch_eq_none h]

/-! ## What an action's absent fields leave as it is -/

theorem countHit_of_no_position {d : Decision} (h : d.position = none) (s : State) : countHit d s = s := by
  simp only [countHit, h]

theorem noticeStep_of_no_position {d : Decision} (h : d.position = none) (s : State) : noticeStep s d = s := by
  simp only [noticeStep, h]

/-- A PASS with an empty port limit reaches every port of its destination (R43, R44). -/
theorem verdictTargets_of_pass_without_limit {a : Action} (hv : a.verdict = .pass) (hl : a.portLimit = 0) (s : State)
    (p : Port) (dest : Word) : verdictTargets s p dest a = resolve s p dest := by
  simp [verdictTargets, hv, narrow, hl]

theorem verdictTargets_of_drop {a : Action} (hv : a.verdict = .drop) (s : State) (p : Port) (dest : Word) :
    verdictTargets s p dest a = ⟨[], some .rxRuleDrop⟩ := by
  simp only [verdictTargets, hv]

theorem rewrite_cls_of_no_class {a : Action} (h : a.classPresent = false) (f : Frame) :
    (rewrite a f).cls = f.cls := by
  unfold rewrite Frame.recheck
  split <;> simp [h]

theorem meterStep_of_no_meter {a : Action} (h : a.meterPresent = false) (s : State) (p : Port) (ports : List Port)
    (f : Frame) : meterStep s p a ports f = ⟨s, ports, f⟩ := by
  simp [meterStep, h]

theorem copyTarget_of_no_copy {d : Decision} (h : d.action.copy = false) (s : State) (p : Port) (ports : List Port) :
    copyTarget s p d ports = none := by
  simp [copyTarget, h]

/-! ## The statements -/

/-- Settles O16: what the selector reads, or that it reads nothing, decides with the sense; a rule follows its terms. -/
theorem whenATermHolds : Obligations.WhenATermHolds := by
  unfold Obligations.WhenATermHolds
  refine ⟨fun f t hsel htag => ?untagged, fun f t hsel hlen => ?shortPayload, fun f r t hmem ht hall => ?allMode,
    fun f r t hr hmem ht hmode => decides_isSome_of_holds hr hmem ht hmode,
    fun f t hsel hs hm => holds_tag_mask_zero hsel hs hm, fun f t => ?fields⟩
  case untagged => exact holds_of_fieldOf_none (by rw [fieldOf_tag hsel, htag, Option.map_none])
  case shortPayload => exact holds_of_fieldOf_none (fieldOf_payload_short hsel hlen)
  case allMode =>
    rw [decides_all hall, if_neg fun hevery => Bool.false_ne_true (ht.symm.trans (hevery t hmem))]
  case fields =>
    refine ⟨fun h => holds_of_fieldOf (fieldOf_dest h), fun h => holds_of_fieldOf (fieldOf_source h), fun h => ?kind,
      fun h => holds_of_fieldOf (fieldOf_cls h), fun h => holds_of_fieldOf (fieldOf_hops h),
      fun h => holds_of_fieldOf (fieldOf_length h), fun h => holds_of_fieldOf (fieldOf_seq h), fun v h htag => ?tag,
      fun h hlen => holds_of_fieldOf (fieldOf_payload h hlen)⟩
    case kind => exact holds_of_fieldOf (by rw [fieldOf_kind h]; cases f.kind <;> rfl)
    case tag => exact holds_of_fieldOf (by rw [fieldOf_tag h, htag, Option.map_some])

/-- Settles O17, mode by mode. -/
theorem matchModes : Obligations.MatchModes := by
  unfold Obligations.MatchModes
  refine ⟨fun f r _ h => decides_all h, fun f r _ h => decides_any h, fun f r hr h =>
    ⟨decides_firstOf_of_none h, fun k t hk ht hlow => ⟨decides_firstOf_of_first h hk ht hlow, ?_⟩⟩,
    fun f r _ h hlen => decides_firstOf_single h hlen⟩
  exact action_isSome_firstOf hr h (List.getElem?_eq_some_iff.mp hk).1

/-- Settles O19: evaluation returns the default's action, whose absent fields leave the later steps without effect. -/
theorem defaultDecides : Obligations.DefaultDecides := by
  unfold Obligations.DefaultDecides
  intro s p f hno
  rw [evaluate_of_no_match hno]
  generalize (s.rules.bank s.rules.working).header = header
  refine ⟨rfl, rfl, rfl, rfl, rfl, rfl, rfl, rfl, countHit_of_no_position rfl s, fun hpass => ?pass, fun hdrop => ?drop⟩
  case pass =>
    exact ⟨verdictTargets_of_pass_without_limit (by rw [hpass]; rfl) rfl s p f.dest, rewrite_cls_of_no_class rfl f,
      fun ports g => meterStep_of_no_meter rfl s p ports g, fun ports => copyTarget_of_no_copy rfl s p ports,
      noticeStep_of_no_position rfl s⟩
  case drop => exact verdictTargets_of_drop (by rw [hdrop]; rfl) s p f.dest

end Sys2Proof.Machine
end

section
/-! SUPPORT. SET_SYNC (R134, R178): one law per answer of the command, and the statement that collects them. -/

namespace Sys2Proof.Machine

open Sys2Proof.Safety

theorem exec_setSync (s : State) : exec .setSync s = .next (runRequest (isCommand 0x15) setSyncCommand s) := rfl

section Answers

variable {r : Request} {payload : List Byte} {s : State}

/-- The claim is tested before the form and the timeout (R153). -/
theorem setSyncCommand_other (h : ¬ Holder s r) : setSyncCommand r payload s = refuse .notHolder s :=
  withClaim_other h

theorem setSyncCommand_zero (h : Holder s r) (hform : formOk payload 1 = true) (hzero : argByte payload 0 = 0) :
    setSyncCommand r payload s = refuse .badArg s := by
  unfold setSyncCommand
  rw [withClaim_holder h, withForm_ok hform, if_pos hzero]

/-- The lock is reported as it was: a new timeout keeps it (R134). -/
theorem setSyncCommand_nonzero (h : Holder s r) (hform : formOk payload 1 = true) (hne : argByte payload 0 ≠ 0) :
    setSyncCommand r payload s =
      ⟨.ok, byte (argByte payload 0) ++ byte (bit s.sync.locked) ++
          byte ((s.sync.setTimeout (argByte payload 0)).timer.getD 0),
        { s with sync := s.sync.setTimeout (argByte payload 0) }⟩ := by
  unfold setSyncCommand
  rw [withClaim_holder h, withForm_ok hform, if_neg hne]
  rfl

end Answers

/-- The time remaining as a reply writes it: 0 for a timer that does not run. -/
theorem getD_zero_eq_match (timer : Option Nat) : timer.getD 0 = (match timer with | none => 0 | some n => n) := by
  cases timer <;> rfl

/-- Settles O47: the request's claim and timeout select one of the command's three answers, with which the event completes. -/
theorem setSync : Obligations.SetSync := by
  unfold Obligations.SetSync
  intro s r f he hasks
  have hmine : isCommand 0x15 f.payload = true := isCommand_of_asks hasks
  obtain ⟨-, hform⟩ := hasks
  have hrun : s.device.state = .running := (Executing_running he).1
  refine ⟨fun hother => ?notHolder, fun hholder hzero => ?zero, fun hholder hpos _ => ?replaced⟩
  case notHolder => exact completes he (exec_setSync s) hmine (setSyncCommand_other hother) hrun
  case zero => exact completes he (exec_setSync s) hmine (setSyncCommand_zero hholder hform hzero) hrun
  case replaced =>
    have hanswer := setSyncCommand_nonzero hholder hform (Nat.one_le_iff_ne_zero.mp hpos)
    rw [getD_zero_eq_match] at hanswer
    exact completes he (exec_setSync s) hmine hanswer hrun

end Sys2Proof.Machine
end

section
/-! SUPPORT. What a port does beside its egress, said once for every property of State that it keeps: leaving service,
changing mode, reception. -/

namespace Sys2Proof.Safety

open Sys2Proof.Machine

variable {P : State → Prop} {s : State} {p : Port}

/-- `P` is kept by what the ports do: their units and egresses, the loss of the lock, the stations forgotten with a port, the
slot claim of a good frame, the count of a discard, and occurrences. -/
structure KeptByPorts (P : State → Prop) : Prop extends KeptByEgress P where
  setPort : ∀ s p u, P s → P (s.setPort p u)
  trunk : ∀ s, P s → P s.trunkLeavesActive
  forget : ∀ s p, P s → P (s.setEntries (removeLearnedOn p s.stations.entries))
  claimSlot : ∀ s p f, P s → P (s.claimSlot p f)
  discard : ∀ s, P s → P s.countStartupDiscard
  raise : ∀ s r d, P s → P (s.raise r d)

theorem KeptByPorts.leaveService (h : KeptByPorts P) {new : PortState} (hs : P s) : P (s.leaveService p new) := by
  have hforget : P (((s.stopEgress p).setPort p
      { (s.stopEgress p).port p with state := new, receiver := .idle, errorCount := 0 }).setEntries
        (removeLearnedOn p (s.stopEgress p).stations.entries)) :=
    h.forget (State.setPort _ _ _) _ (h.setPort _ _ _ (h.toKeptByEgress.stopEgress hs))
  unfold State.leaveService
  simp only
  split
  · exact h.trunk _ hforget
  · exact hforget

/-- The mode of a SET_PORT keeps `P` (R121 to R123). -/
theorem KeptByPorts.applyMode (h : KeptByPorts P) {mode : Mode} (hs : P s) : P (s.applyMode p mode) := by
  unfold State.applyMode
  simp only
  split
  · exact h.setPort _ _ _ hs
  · split
    · split
      · exact h.setPort _ _ _ hs
      · exact h.leaveService (h.setPort _ _ _ hs)
    · split
      · exact h.trunk _ (h.setPort _ _ _ hs)
      · exact h.setPort _ _ _ hs

/-- A counted error keeps `P`, also where it blocks a branch (R124, R125). -/
theorem KeptByPorts.countError (h : KeptByPorts P) {c : Counter} (hs : P s) : P (s.countError p c) := by
  unfold State.countError
  simp only
  split
  · exact h.raise _ _ _ (h.setPort _ _ _ (h.leaveService (h.setPort _ _ _ (h.count _ _ _ hs))))
  · exact h.setPort _ _ _ (h.count _ _ _ hs)

theorem KeptByPorts.judgeReception (h : KeptByPorts P) {stored : List Byte} {n : Nat} {cutOff : Bool} (hs : P s) :
    P (s.judgeReception p stored n cutOff) := by
  unfold State.judgeReception
  split
  · split
    · exact h.count _ _ _ hs
    · split
      · exact h.countError hs
      · exact h.claimSlot _ _ _ (h.count _ _ _ hs)
  · exact h.discard _ hs

/-- What ends a frame in reception keeps `P` (R115 to R119). -/
theorem KeptByPorts.receiveEnding (h : KeptByPorts P) {ending : Ending} (hs : P s) : P (s.receiveEnding p ending) := by
  have hjudged : P (match (s.port p).receiver with
      | .idle => s
      | .receiving stored n =>
        (s.setReceiver p .idle).judgeReception p stored n (decide (ending ≠ .endMark))) := by
    split
    · exact hs
    · exact h.judgeReception (h.setPort _ _ _ hs)
  unfold State.receiveEnding
  simp only
  split
  · exact h.setPort _ _ _ hjudged
  · exact hjudged

/-- What a good frame's slot claim can do (R92): the quota is reached, no slot is free, or the lowest free slot is taken. -/
theorem claimSlot_cases (s : State) (p : Port) (f : Frame) :
    ((s.port p).quota ≤ s.store.held.get p ∧ s.claimSlot p f = s.count p .rxQuota) ∨
    (s.store.held.get p < (s.port p).quota ∧ s.lowestFreeSlot = none ∧
      s.claimSlot p f = (s.count p .rxNoSlot).raise .storeExhausted (BitVec.ofNat 16 (portNumber p))) ∨
    (s.store.held.get p < (s.port p).quota ∧ ∃ n, s.lowestFreeSlot = some n ∧
      s.claimSlot p f =
        { s with
          store :=
            { s.store with
              slots := put n ⟨f, .port p, s.store.clock, 1⟩ s.store.slots
              held := s.store.held.set p (s.store.held.get p + 1)
              awaiting := s.store.awaiting.set p (s.store.awaiting.get p ++ [n]) } }) := by
  unfold State.claimSlot
  by_cases hq : (s.port p).quota ≤ s.store.held.get p
  · exact .inl ⟨hq, if_pos hq⟩
  · rw [if_neg hq]
    cases hn : s.lowestFreeSlot with
    | none => exact .inr (.inl ⟨by omega, rfl, rfl⟩)
    | some n => exact .inr (.inr ⟨by omega, n, rfl, rfl⟩)

end Sys2Proof.Safety
end

section
/-! SUPPORT. The Frame Store and the Station Table keep their forms (R53, R54, R89, R93): the operations of both blocks, and
the statement over every step. -/

namespace Sys2Proof.Safety

open Sys2Proof.Machine

variable {s t : State}

/-- The three forms that the step keeps together. -/
def StoresOk (s : State) : Prop := SlotsOk s ∧ StationsOk s ∧ HeldOk s

/-! ## Slots -/

theorem keysBelow_put {α : Type} {k n : Nat} {x : α} {l : List (Nat × α)} (h : keysBelow k l) (hn : n < k) :
    keysBelow k (put n x l) := by
  intro e he
  rcases mem_put he with rfl | he
  · exact hn
  · exact h e he

theorem keysBelow_remove {α : Type} {k n : Nat} {l : List (Nat × α)} (h : keysBelow k l) : keysBelow k (remove n l) :=
  fun e he => h e (mem_remove he)

/-- What is listed under a number lies below the bound. -/
theorem keysBelow_lookup {α : Type} {k n : Nat} {x : α} {l : List (Nat × α)} (h : keysBelow k l)
    (hn : lookup n l = some x) : n < k := h (n, x) (lookup_mem hn)

/-- The free slot with the lowest number is a slot, and free. -/
theorem lowestFreeSlot_free {n : Nat} (h : s.lowestFreeSlot = some n) : n < Config.slotCount ∧ s.slot n = none := by
  obtain ⟨-, hlt, hfree, -⟩ := lowestFree_spec h
  exact ⟨by omega, hfree⟩

/-- A held slot written over with the same arrival attribute keeps the forms. -/
theorem StoresOk.rewritten {n : Nat} {x y : Slot} (hs : StoresOk s) (hx : s.slot n = some x) (ho : y.origin = x.origin) :
    StoresOk (s.setSlots (put n y s.store.slots)) := by
  obtain ⟨⟨hr, hk⟩, hst, hh⟩ := hs
  refine ⟨⟨rising_put hr, keysBelow_put hk (keysBelow_lookup hk hx)⟩, hst, fun p => ?_⟩
  show s.store.held.get p = (put n y s.store.slots).countP _
  rw [countP_put_same hr hx (by simp only [ho])]
  exact hh p

/-- A free slot that the part takes for itself keeps the forms: no port's held count counts it. -/
theorem StoresOk.filled {n k : Nat} {f : Frame} (hs : StoresOk s) (hn : s.lowestFreeSlot = some n) :
    StoresOk (s.fillSlot n f .agent k) := by
  obtain ⟨⟨hr, hk⟩, hst, hh⟩ := hs
  obtain ⟨hlt, hfree⟩ := lowestFreeSlot_free hn
  refine ⟨⟨rising_put hr, keysBelow_put hk hlt⟩, hst, fun p => ?_⟩
  show s.store.held.get p = (put n _ s.store.slots).countP _
  rw [countP_put_new hfree]
  simpa using hh p

/-- A good frame's slot is counted against its port alone. -/
theorem StoresOk.claimed {p : Port} {f : Frame} (hs : StoresOk s) : StoresOk (s.claimSlot p f) := by
  rcases claimSlot_cases s p f with ⟨-, e⟩ | ⟨-, -, e⟩ | ⟨-, n, hn, e⟩ <;> rw [e]
  · exact hs
  · exact hs
  · obtain ⟨⟨hr, hk⟩, hst, hh⟩ := hs
    obtain ⟨hlt, hfree⟩ := lowestFreeSlot_free hn
    refine ⟨⟨rising_put hr, keysBelow_put hk hlt⟩, hst, fun q => ?_⟩
    show (s.store.held.set p _).get q = (put n _ s.store.slots).countP _
    rw [countP_put_new hfree, PerPort.get_set, hh p]
    by_cases hq : q = p
    · subst hq
      simp
    · simpa [hq, Ne.symm hq] using hh q

theorem StoresOk.common : KeptInCommon StoresOk where
  egress := fun _ _ _ hs => hs
  count := fun _ _ _ hs => hs
  report := fun s n hs => by
    rcases reportEnd_cases s n with ⟨_, e⟩ | ⟨_, e⟩ <;> rw [e] <;> exact hs
  release := fun s n hs => by
    have hstations := (releaseRef_only s .t n).stations
    exact ⟨releaseRef_slotsOk hs.1 n, by unfold StationsOk; rw [hstations]; exact hs.2.1,
      releaseRef_heldOk hs.1 hs.2.2 n⟩
  addRef := fun s n hs => by
    unfold State.addRef
    split
    · exact hs
    · next x hx => exact hs.rewritten hx rfl
  fill := fun _ _ _ hn hs => hs.filled hn
  agent := fun _ _ hs => hs
  notices := fun _ _ hs => hs
  device := fun _ _ hs => hs
  choices := fun _ _ hs => hs
  rewrite := fun s n f hs => by
    rcases rewriteSlot_cases s n f with ⟨_, e⟩ | ⟨x, hx, e⟩ <;> rw [e]
    · exact hs
    · exact hs.rewritten hx rfl
  awaiting := fun _ _ _ hs => hs

/-! ## Stations -/

/-- The forms stand on the table's entries, the slots and the held counts alone. -/
theorem StoresOk.of_entries {l : List (Nat × StationEntry)} (hs : StoresOk s) (hr : rising l = true)
    (hl : l.length ≤ Config.stationCapacity) : StoresOk (s.setEntries l) := ⟨hs.1, ⟨hr, hl⟩, hs.2.2⟩

/-- Dropping entries keeps the table's form. -/
theorem StoresOk.of_sublist {l : List (Nat × StationEntry)} (hs : StoresOk s) (hl : List.Sublist l s.stations.entries) :
    StoresOk (s.setEntries l) :=
  hs.of_entries (rising_sublist hl hs.2.1.1) (Nat.le_trans hl.length_le hs.2.1.2)

theorem remove_sublist {α : Type} (k : Nat) (l : List (Nat × α)) : List.Sublist (remove k l) l := by
  induction l with
  | nil => exact List.Sublist.refl _
  | cons e rest ih =>
    unfold remove
    split
    · exact List.sublist_cons_self _ _
    · exact ih.cons_cons _

/-- An entry written where there was one, or where there was room, keeps the table's form. -/
theorem StoresOk.put_entry {a : Word} {e : StationEntry} (hs : StoresOk s)
    (hroom : s.station a = none → s.tableFull = false) : StoresOk (s.setEntries (put a.toNat e s.stations.entries)) := by
  refine hs.of_entries (rising_put hs.2.1.1) ?_
  cases ha : s.station a with
  | some y =>
    rw [length_put_some ha hs.2.1.1]
    exact hs.2.1.2
  | none =>
    have hfull : ¬ Config.stationCapacity ≤ s.stations.entries.length := of_decide_eq_false (hroom ha)
    have hlen : (put a.toNat e s.stations.entries).length ≤ s.stations.entries.length + 1 := length_put_le
    omega

theorem StoresOk.learned {a : Word} {p : Port} (hs : StoresOk s) : StoresOk (s.learn a p).2 := by
  unfold State.learn
  split
  · next ha =>
    split
    · exact hs
    · next hfull => exact hs.put_entry (fun _ => by simpa using hfull)
  · next e ha =>
    have hwritten : StoresOk (s.writeLearned a p) := hs.put_entry (fun hnone => by rw [ha] at hnone; cases hnone)
    split
    · split <;> exact hs
    · split
      · exact hwritten
      · unfold State.countMove
        simp only
        split <;> exact hwritten

theorem length_mapValues {α : Type} (f : α → α) (l : List (Nat × α)) : (mapValues f l).length = l.length :=
  List.length_map _

theorem ageEntry_key {e e' : Nat × StationEntry} (h : ageEntry e = some e') : e'.1 = e.1 := by
  unfold ageEntry at h
  split at h
  · cases h; rfl
  · split at h
    · cases h
    · cases h; rfl

/-! ## The lock, the gate and the meters -/

theorem StoresOk.setGate {b : Bool} (hs : StoresOk s) : StoresOk (s.setGate b) := by
  rw [(setGate_only s b).1]
  exact hs

theorem StoresOk.trunk (hs : StoresOk s) : StoresOk s.trunkLeavesActive := by
  rcases trunkLeavesActive_cases s with ⟨_, e⟩ | ⟨_, e⟩ <;> rw [e]
  · rw [(loseSync_only s 1).1]
    exact hs
  · exact hs

theorem StoresOk.ports : KeptByPorts StoresOk where
  toKeptByEgress := StoresOk.common.toKeptByEgress
  setPort := fun _ _ _ hs => hs
  trunk := fun _ hs => hs.trunk
  forget := fun _ _ hs => hs.of_sublist List.filter_sublist
  claimSlot := fun _ _ _ hs => hs.claimed
  discard := fun _ hs => hs
  raise := fun _ _ _ hs => hs

theorem StoresOk.classifier (n : Nat) : KeptByClassifier n StoresOk :=
  StoresOk.common.classifier
    (fun s _ hs => by rw [(trunkSync_only s).1]; exact hs)
    (fun _ _ _ hs => hs.learned)
    (fun s d hs => by rw [countHit_only d s]; exact hs)
    (fun s k c hs => by rw [consult_only s k c]; exact hs)

/-! ## Commands and events -/

theorem StoresOk.restartTraffic (hs : StoresOk s) : StoresOk s.restartTraffic := by
  have hstopped := StoresOk.common.stopAll hs
  unfold State.restartTraffic
  generalize s.stopAll = u at hstopped
  obtain ⟨hslots, ⟨hrise, hlen⟩, hheld⟩ := hstopped
  exact ⟨hslots, ⟨rising_filter _ hrise, Nat.le_trans (List.length_filter_le _ _) hlen⟩, hheld⟩

theorem StoresOk.startReset (hs : StoresOk s) (count : Nat) : StoresOk (s.startReset count) := by
  have hstopped := StoresOk.common.stopAll hs
  unfold State.startReset
  generalize s.stopAll = u at hstopped
  exact hstopped

theorem StoresOk.command {r : Request} (hs : StoresOk s) (h : CommandEffect r s t) : StoresOk t := by
  cases h
  case setPort => exact StoresOk.ports.applyMode hs
  case writeStation h => exact hs.put_entry h
  case deleteStation => exact hs.of_sublist (remove_sublist _ _)
  case flush => exact hs.of_sublist List.filter_sublist
  case flushPort => exact hs.of_sublist List.filter_sublist
  case aging =>
    exact ⟨hs.1, ⟨rising_mapValues _ hs.2.1.1, by rw [length_mapValues]; exact hs.2.1.2⟩, hs.2.2⟩
  case ack => exact StoresOk.common.settleReady hs
  case setNotice => exact StoresOk.common.settleReady hs
  case traffic => exact hs.restartTraffic
  all_goals exact hs

theorem StoresOk.beginStarting (hs : StoresOk s) : StoresOk s.beginStarting := hs

theorem StoresOk.event (hs : StoresOk s) (h : EventEffect s t) : StoresOk t := by
  cases h
  case request r f a _ ha => exact StoresOk.common.completeRequest (hs.command ha)
  case restartFull r f a _ ha => exact StoresOk.common.completeRequest (by rw [ha]; exact hs)
  case resetLow => exact StoresOk.common.device _ _ (hs.startReset 0)
  case restartPoint => exact (hs.startReset _).beginStarting
  case sweep =>
    refine ⟨⟨rfl, fun e he => nomatch he⟩, ⟨rfl, Nat.zero_le _⟩, fun p => ?_⟩
    cases p <;> rfl
  case startMark => exact StoresOk.ports.receiveEnding hs
  case endOfFrame => exact StoresOk.ports.receiveEnding hs
  case classified p n rest x _ _ _ => exact StoresOk.common.release _ _ ((StoresOk.classifier n).classify hs)
  case transmitted => exact StoresOk.common.finishTransmission hs
  case syncExpired =>
    rw [(loseSync_only s 0).1]
    exact hs
  case agingTick =>
    exact ⟨hs.1, ⟨rising_filterMap _ (fun _ _ he => ageEntry_key he) hs.2.1.1,
      Nat.le_trans (List.length_filterMap_le _ _) hs.2.1.2⟩, hs.2.2⟩
  case served => exact StoresOk.common.takeService hs
  case millisecond =>
    unfold State.millisecond
    split <;> exact hs
  all_goals exact hs

/-- Settles O53, over every event's effect. -/
theorem stepKeepsTheStores : Obligations.StepKeepsTheStores := by
  unfold Obligations.StepKeepsTheStores
  intro s t hslots hstations hheld hstep
  obtain ⟨rest, heffect⟩ := step_effect hstep
  exact StoresOk.event (s := { s with pending := rest }) ⟨hslots, hstations, hheld⟩ heffect

end Sys2Proof.Safety
end

section
/-! SUPPORT. The rule record (R16, R213): written and read back, read and written back, and the first test of R16 that a
record fails. -/

namespace Sys2Proof.Machine

open Sys2Proof.Safety

/-! ## Offsets -/

theorem byteAt_drop (l : List Byte) (o i : Nat) : byteAt (l.drop o) i = byteAt l (o + i) := by
  simp [byteAt, List.getD_eq_getElem?_getD, List.getElem?_drop]

theorem wordAt_drop (l : List Byte) (o i : Nat) : wordAt (l.drop o) i = wordAt l (o + i) := by
  simp [wordAt, byteAt_drop, Nat.add_assoc]

/-- Six bytes that are there, one by one. -/
theorem take_six {l : List Byte} (h : 6 ≤ l.length) :
    l.take 6 = [byteAt l 0, byteAt l 1, byteAt l 2, byteAt l 3, byteAt l 4, byteAt l 5] := by
  match l, h with
  | a :: b :: c :: d :: e :: f :: rest, _ => rfl

theorem termBytes_length (t : Term) : (termBytes t).length = 6 := rfl

theorem actionBytes_length (a : Action) : (actionBytes a).length = 6 := rfl

/-! ## Written and read back -/

/-- The terms of a record are read back in their order, whatever follows them. -/
theorem readTerms_flatMap {ts : List Term} (h : ∀ t ∈ ts, TermOk t) (k : Nat) (rest : List Byte) :
    readTerms ts.length k (ts.flatMap termBytes ++ rest) = .ok ts := by
  induction ts generalizing k with
  | nil => rfl
  | cons t ts ih =>
    obtain ⟨ht, hts⟩ := List.forall_mem_cons.mp h
    have hread := readTerm_termBytes k ht (ts.flatMap termBytes ++ rest)
    have hdrop : (termBytes t ++ (ts.flatMap termBytes ++ rest)).drop 6 = ts.flatMap termBytes ++ rest := rfl
    simp only [List.flatMap_cons, List.append_assoc, List.length_cons, readTerms, hread, hdrop, ih hts]

theorem readActions_flatMap {as : List Action} (h : ∀ a ∈ as, ActionOk a) (k : Nat) (rest : List Byte) :
    readActions as.length k (as.flatMap actionBytes ++ rest) = .ok as := by
  induction as generalizing k with
  | nil => rfl
  | cons a as ih =>
    obtain ⟨ha, has⟩ := List.forall_mem_cons.mp h
    have hread := readAction_actionBytes k ha (as.flatMap actionBytes ++ rest)
    have hdrop : (actionBytes a ++ (as.flatMap actionBytes ++ rest)).drop 6 = as.flatMap actionBytes ++ rest := rfl
    simp only [List.flatMap_cons, List.append_assoc, List.length_cons, readActions, hread, hdrop, ih has]

theorem headByte_fields (m : BitVec 2) (a b : BitVec 3) :
    (m ++ a ++ b).extractLsb' 6 2 = m ∧ (m ++ a ++ b).extractLsb' 3 3 = a ∧ (m ++ a ++ b).extractLsb' 0 3 = b := by
  revert m a b
  decide

section Written

variable {r : Rule}

/-- A legal rule has one action, or one for each term: at most four. -/
theorem ruleOk_actions_le (h : RuleOk r) : 1 ≤ r.actions.length ∧ r.actions.length ≤ 4 := by
  obtain ⟨hone, hfour, hlen, -⟩ := h
  rw [hlen]
  split <;> omega

theorem byteAt_ruleBytes_zero (r : Rule) : byteAt (ruleBytes r) 0 =
    matchModeCode r.mode ++ BitVec.ofNat 3 r.terms.length ++ BitVec.ofNat 3 r.actions.length := rfl

theorem byteAt_ruleBytes_one (r : Rule) : byteAt (ruleBytes r) 1 = (0 : BitVec 3) ++ r.arrival := rfl

theorem recordTermCount_ruleBytes (h : RuleOk r) : recordTermCount (ruleBytes r) = r.terms.length := by
  obtain ⟨-, hfour, -⟩ := h
  unfold recordTermCount
  rw [byteAt_ruleBytes_zero, (headByte_fields _ _ _).2.1, BitVec.toNat_ofNat]
  omega

theorem recordActionCount_ruleBytes (h : RuleOk r) : recordActionCount (ruleBytes r) = r.actions.length := by
  have hfour := (ruleOk_actions_le h).2
  unfold recordActionCount
  rw [byteAt_ruleBytes_zero, (headByte_fields _ _ _).2.2, BitVec.toNat_ofNat]
  omega

theorem heldBy_of_le {n : Nat} (h1 : 1 ≤ n) (h4 : n ≤ 4) : heldBy n = n := if_pos ⟨h1, h4⟩

theorem flatMap_length_six {α : Type} {f : α → List Byte} (h : ∀ x, (f x).length = 6) (l : List α) :
    (l.flatMap f).length = 6 * l.length := by
  induction l with
  | nil => rfl
  | cons x l ih => simp only [List.flatMap_cons, List.length_append, h, ih, List.length_cons]; omega

theorem recordLength_ruleBytes (h : RuleOk r) : recordLength (ruleBytes r) = (ruleBytes r).length := by
  unfold recordLength
  rw [recordTermCount_ruleBytes h, recordActionCount_ruleBytes h, heldBy_of_le h.1 h.2.1,
    heldBy_of_le (ruleOk_actions_le h).1 (ruleOk_actions_le h).2]
  unfold ruleBytes
  simp only [List.length_append, flatMap_length_six termBytes_length, flatMap_length_six actionBytes_length,
    List.length_cons, List.length_nil]

/-- A written record is read back as its rule. -/
theorem readRuleRecord_ruleBytes (h : RuleOk r) : readRuleRecord (ruleBytes r) = .ok r := by
  obtain ⟨hone, hfour, hlen, harrival, hterms, hactions⟩ := id h
  have hmode : matchModeOf ((byteAt (ruleBytes r) 0).extractLsb' 6 2) = some r.mode := by
    rw [byteAt_ruleBytes_zero, (headByte_fields _ _ _).1, matchModeOf_matchModeCode]
  have hports : (byteAt (ruleBytes r) 1).extractLsb' 0 5 = r.arrival := by
    rw [byteAt_ruleBytes_one, (limitByte_fields _).1]
  have hreadTerms : readTerms r.terms.length 0 ((ruleBytes r).drop 2) = .ok r.terms :=
    readTerms_flatMap hterms 0 (r.actions.flatMap actionBytes)
  have hdrop : (ruleBytes r).drop (2 + 6 * r.terms.length) = r.actions.flatMap actionBytes ++ [] := by
    unfold ruleBytes
    rw [List.append_nil, List.drop_left']
    simp only [List.length_append, flatMap_length_six termBytes_length, List.length_cons, List.length_nil]
  have hreadActions : readActions r.actions.length 0 ((ruleBytes r).drop (2 + 6 * r.terms.length)) = .ok r.actions := by
    rw [hdrop]
    exact readActions_flatMap hactions 0 []
  unfold readRuleRecord
  simp only [hmode, hports, recordTermCount_ruleBytes h, recordActionCount_ruleBytes h, hreadTerms, hreadActions,
    if_neg harrival]
  rw [if_neg (by omega), if_neg (fun hne => hne hlen)]

/-- The byte at offset `6 * k` of a list of records of six bytes is the first of record `k`; further bytes follow. -/
theorem byteAt_flatMap_six {α : Type} {f : α → List Byte} (h : ∀ x, (f x).length = 6) (l : List α) (rest : List Byte)
    {k i : Nat} (hk : k < l.length) (hi : i < 6) : byteAt (l.flatMap f ++ rest) (6 * k + i) = byteAt (f l[k]) i := by
  induction l generalizing k with
  | nil => cases hk
  | cons x l ih =>
    rw [List.flatMap_cons, List.append_assoc]
    cases k with
    | zero =>
      simp only [byteAt, List.getD_eq_getElem?_getD, Nat.mul_zero, Nat.zero_add, List.getElem_cons_zero]
      rw [List.getElem?_append_left (by rw [h]; exact hi)]
    | succ k =>
      have hshift : 6 * (k + 1) + i = (f x).length + (6 * k + i) := by rw [h]; omega
      rw [hshift, ← byteAt_drop, List.drop_left, ih (by simpa using hk), List.getElem_cons_succ]

theorem recordReservedClear_ruleBytes (h : RuleOk r) : recordReservedClear (ruleBytes r) = true := by
  have hsplit : ruleBytes r = (ruleBytes r).take 2 ++ (r.terms.flatMap termBytes ++ r.actions.flatMap actionBytes) := rfl
  have hdrop2 : (ruleBytes r).drop 2 = r.terms.flatMap termBytes ++ r.actions.flatMap actionBytes := rfl
  have hdropTerms : (ruleBytes r).drop (2 + 6 * r.terms.length) = r.actions.flatMap actionBytes ++ [] := by
    rw [← List.drop_drop, hdrop2, List.append_nil, List.drop_left' (flatMap_length_six termBytes_length _)]
  unfold recordReservedClear actionOffset termOffset
  rw [recordTermCount_ruleBytes h, recordActionCount_ruleBytes h, heldBy_of_le h.1 h.2.1,
    heldBy_of_le (ruleOk_actions_le h).1 (ruleOk_actions_le h).2]
  simp only [Bool.and_eq_true, List.all_eq_true, decide_eq_true_eq, List.mem_range]
  refine ⟨⟨?head, fun k hk => ?term⟩, fun k hk => ?action⟩
  case head => rw [byteAt_ruleBytes_one, (limitByte_fields _).2]
  case term =>
    rw [← byteAt_drop, hdrop2, ← Nat.add_zero (6 * k), byteAt_flatMap_six termBytes_length _ _ hk (by omega)]
    exact (termByte_fields _ _).2.2
  case action =>
    rw [Nat.add_assoc, ← byteAt_drop, hdropTerms, byteAt_flatMap_six actionBytes_length _ _ hk (by omega)]
    exact (limitByte_fields _).2

end Written

/-! ## Read and written back -/

/-- What an admitted term is: the selector's code stands in its byte, and its offset passes test 6. -/
theorem readTerm_ok {k : Nat} {bs : List Byte} {t : Term} (h : readTerm k bs = .ok t) :
    TermOk t ∧ selectorOf ((byteAt bs 0).extractLsb' 0 4) = some t.selector ∧
      t = ⟨t.selector, senseOf ((byteAt bs 0).getLsbD 7), byteAt bs 1, wordAt bs 2, wordAt bs 4⟩ := by
  unfold readTerm at h
  split at h
  · cases h
  · next sel hsel =>
    simp only at h
    split at h
    · cases h
    · next hoffset =>
      cases h
      refine ⟨fun hp => ?_, hsel, rfl⟩
      obtain ⟨heven, hle⟩ := not_or.mp (fun hbad => hoffset ⟨hp, hbad⟩)
      exact ⟨Nat.mod_two_ne_one.mp heven, Nat.le_of_not_lt hle⟩

/-- What an admitted action is: its codes stand in its bytes, and it passes tests 8, 9, 11 and 12. -/
theorem readAction_ok {k : Nat} {bs : List Byte} {a : Action} (h : readAction k bs = .ok a) :
    ActionOk a ∧ verdictOf ((byteAt bs 0).extractLsb' 0 2) = some a.verdict ∧
      tagOpOf ((byteAt bs 0).extractLsb' 2 2) = some a.tagOp ∧
      a = ⟨a.verdict, a.tagOp, (byteAt bs 0).getLsbD 4, (byteAt bs 0).getLsbD 5, (byteAt bs 0).getLsbD 6,
        (byteAt bs 0).getLsbD 7, (byteAt bs 1).extractLsb' 0 4, (byteAt bs 1).extractLsb' 4 4,
        (byteAt bs 2).extractLsb' 0 5, byteAt bs 3, wordAt bs 4⟩ := by
  unfold readAction at h
  simp only at h
  split at h
  · cases h
  · next verdict hverdict =>
    split at h
    · cases h
    · next hsteer =>
      split at h
      · cases h
      · next hclass =>
        split at h
        · cases h
        · next tagOp htagOp =>
          split at h
          · cases h
          · next htag =>
            split at h
            · cases h
            · next hmeter =>
              cases h
              refine ⟨⟨fun hv => ?_, fun hc => ?_, fun ht => ?_, fun hm => ?_⟩, hverdict, htagOp, rfl⟩
              · exact Nat.le_of_not_lt (fun hlt => hsteer ⟨hv, hlt⟩)
              · exact Nat.le_of_not_lt (fun hlt => hclass ⟨hc, hlt⟩)
              · exact Nat.le_of_not_lt (fun hlt => htag ⟨ht, hlt⟩)
              · exact Nat.le_of_not_lt (fun hlt => hmeter ⟨hm, hlt⟩)

theorem senseBit_senseOf (b : Bool) : senseBit (senseOf b) = b := by cases b <;> rfl

theorem termByte_of_reserved :
    ∀ b : Byte, b.extractLsb' 4 3 = 0 → BitVec.ofBool (b.getLsbD 7) ++ (0 : BitVec 3) ++ b.extractLsb' 0 4 = b := by
  decide

theorem limitByte_of_reserved : ∀ b : Byte, b.extractLsb' 5 3 = 0 → (0 : BitVec 3) ++ b.extractLsb' 0 5 = b := by
  decide

theorem nibbles_join : ∀ b : Byte, b.extractLsb' 4 4 ++ b.extractLsb' 0 4 = b := by decide

theorem actionByte_join : ∀ b : Byte,
    BitVec.ofBool (b.getLsbD 7) ++ BitVec.ofBool (b.getLsbD 6) ++ BitVec.ofBool (b.getLsbD 5) ++
      BitVec.ofBool (b.getLsbD 4) ++ b.extractLsb' 2 2 ++ b.extractLsb' 0 2 = b := by decide

theorem headByte_join : ∀ b : Byte, b.extractLsb' 6 2 ++ b.extractLsb' 3 3 ++ b.extractLsb' 0 3 = b := by decide

/-- An admitted term is written as the six bytes it was read from. -/
theorem termBytes_of_readTerm {k : Nat} {bs : List Byte} {t : Term} (h : readTerm k bs = .ok t) (hlen : 6 ≤ bs.length)
    (hreserved : (byteAt bs 0).extractLsb' 4 3 = 0) : termBytes t = bs.take 6 := by
  obtain ⟨-, hsel, ht⟩ := readTerm_ok h
  rw [take_six hlen, ht]
  simp only [termBytes, senseBit_senseOf, selectorCode_of hsel, termByte_of_reserved _ hreserved, wordAt,
    wordBytes_wordOf, List.cons_append, List.nil_append]

theorem actionBytes_of_readAction {k : Nat} {bs : List Byte} {a : Action} (h : readAction k bs = .ok a)
    (hlen : 6 ≤ bs.length) (hreserved : (byteAt bs 2).extractLsb' 5 3 = 0) : actionBytes a = bs.take 6 := by
  obtain ⟨-, hverdict, htagOp, ha⟩ := readAction_ok h
  rw [take_six hlen, ha]
  simp only [actionBytes, verdictCode_of hverdict, tagOpCode_of htagOp, actionByte_join, nibbles_join,
    limitByte_of_reserved _ hreserved, wordAt, wordBytes_wordOf, List.cons_append, List.nil_append]

/-- Terms that are read one behind the other: as many as were asked for, all legal, and written back as they were read. -/
theorem readTerms_ok {n k : Nat} {bs : List Byte} {ts : List Term} (h : readTerms n k bs = .ok ts) :
    ts.length = n ∧ (∀ t ∈ ts, TermOk t) ∧
      (6 * n ≤ bs.length → (∀ j, j < n → (byteAt bs (6 * j)).extractLsb' 4 3 = 0) →
        ts.flatMap termBytes = bs.take (6 * n)) := by
  induction n generalizing k bs ts with
  | zero => cases h; exact ⟨rfl, (fun t ht => nomatch ht), fun _ _ => rfl⟩
  | succ n ih =>
    unfold readTerms at h
    split at h
    · cases h
    · next t ht =>
      split at h
      · cases h
      · next us hus =>
        cases h
        obtain ⟨hn, hok, hwritten⟩ := ih hus
        refine ⟨by rw [List.length_cons, hn], List.forall_mem_cons.mpr ⟨(readTerm_ok ht).1, hok⟩, fun hlen hres => ?_⟩
        have hhead := termBytes_of_readTerm ht (by omega) (hres 0 (by omega))
        have htail := hwritten (by rw [List.length_drop]; omega) (fun j hj => by
          rw [byteAt_drop, ← hres (j + 1) (by omega)]
          congr 2
          omega)
        rw [List.flatMap_cons, hhead, htail, show 6 * (n + 1) = 6 + 6 * n by omega, List.take_add]

theorem readActions_ok {n k : Nat} {bs : List Byte} {as : List Action} (h : readActions n k bs = .ok as) :
    as.length = n ∧ (∀ a ∈ as, ActionOk a) ∧
      (6 * n ≤ bs.length → (∀ j, j < n → (byteAt bs (6 * j + 2)).extractLsb' 5 3 = 0) →
        as.flatMap actionBytes = bs.take (6 * n)) := by
  induction n generalizing k bs as with
  | zero => cases h; exact ⟨rfl, (fun t ht => nomatch ht), fun _ _ => rfl⟩
  | succ n ih =>
    unfold readActions at h
    split at h
    · cases h
    · next a ha =>
      split at h
      · cases h
      · next us hus =>
        cases h
        obtain ⟨hn, hok, hwritten⟩ := ih hus
        refine ⟨by rw [List.length_cons, hn], List.forall_mem_cons.mpr ⟨(readAction_ok ha).1, hok⟩, fun hlen hres => ?_⟩
        have hhead := actionBytes_of_readAction ha (by omega) (hres 0 (by omega))
        have htail := hwritten (by rw [List.length_drop]; omega) (fun j hj => by
          rw [byteAt_drop, ← hres (j + 1) (by omega)]
          congr 2
          omega)
        rw [List.flatMap_cons, hhead, htail, show 6 * (n + 1) = 6 + 6 * n by omega, List.take_add]

section Admitted

variable {record : List Byte} {r : Rule}

/-- What an admitted rule was read from: each field of the record, with the tests that it passed. -/
structure Admitted (record : List Byte) (r : Rule) : Prop where
  mode : matchModeOf ((byteAt record 0).extractLsb' 6 2) = some r.mode
  termCount : 1 ≤ recordTermCount record ∧ recordTermCount record ≤ 4
  actionCount : recordActionCount record = if r.mode = .firstOf then recordTermCount record else 1
  arrival : r.arrival = (byteAt record 1).extractLsb' 0 5 ∧ r.arrival ≠ 0
  terms : readTerms (recordTermCount record) 0 (record.drop 2) = .ok r.terms
  actions : readActions (recordActionCount record) 0 (record.drop (2 + 6 * recordTermCount record)) = .ok r.actions

theorem readRuleRecord_admitted (h : readRuleRecord record = .ok r) : Admitted record r := by
  unfold readRuleRecord at h
  simp only at h
  split at h
  · cases h
  next mode hmode =>
  generalize hwanted : (if mode = .firstOf then recordTermCount record else 1) = wanted at h
  split at h
  · cases h
  next hcount =>
  split at h
  · cases h
  next hactions =>
  split at h
  · cases h
  next harrival =>
  split at h
  · cases h
  next terms hterms =>
  split at h
  · cases h
  next actions hread =>
  cases h
  exact ⟨hmode, by omega, (Classical.not_not.mp hactions).trans hwanted.symm, ⟨rfl, harrival⟩, hterms, hread⟩

/-- A rule that passes the legality check is legal (R16). -/
theorem ruleOk_of_readRuleRecord (h : readRuleRecord record = .ok r) : RuleOk r := by
  obtain ⟨-, htermCount, hactionCount, harrival, hterms, hactions⟩ := readRuleRecord_admitted h
  obtain ⟨htlen, htok, -⟩ := readTerms_ok hterms
  obtain ⟨halen, haok, -⟩ := readActions_ok hactions
  exact ⟨by omega, by omega, by rw [halen, htlen, hactionCount], harrival.2, htok, haok⟩

theorem ofNat_three_toNat (x : BitVec 3) : BitVec.ofNat 3 x.toNat = x := BitVec.ofNat_toNat 3 x ▸ BitVec.setWidth_eq x

/-- A record that passes, held whole and without a reserved bit, is the record of its rule. -/
theorem ruleBytes_of_readRuleRecord (h : readRuleRecord record = .ok r) (hlen : recordLength record ≤ record.length)
    (hclear : recordReservedClear record = true) : ruleBytes r = record.take (recordLength record) := by
  have hrule := ruleOk_of_readRuleRecord h
  obtain ⟨hmode, htermCount, hactionCount, harrival, hterms, hactions⟩ := readRuleRecord_admitted h
  obtain ⟨htlen, -, htbytes⟩ := readTerms_ok hterms
  obtain ⟨halen, -, habytes⟩ := readActions_ok hactions
  have hactionsLe := ruleOk_actions_le hrule
  have hlength : recordLength record = 2 + 6 * recordTermCount record + 6 * recordActionCount record := by
    unfold recordLength
    rw [heldBy_of_le htermCount.1 htermCount.2, heldBy_of_le (by omega) (by omega)]
  rw [hlength] at hlen ⊢
  unfold recordReservedClear actionOffset termOffset at hclear
  rw [heldBy_of_le htermCount.1 htermCount.2, heldBy_of_le (n := recordActionCount record) (by omega) (by omega)] at hclear
  simp only [Bool.and_eq_true, List.all_eq_true, decide_eq_true_eq, List.mem_range] at hclear
  obtain ⟨⟨hhead, htermBits⟩, hactionBits⟩ := hclear
  have hterms' := htbytes (by rw [List.length_drop]; omega) (fun j hj => by rw [byteAt_drop]; exact htermBits j hj)
  have hactions' := habytes (by rw [List.length_drop]; omega) (fun j hj => by
    rw [byteAt_drop, ← Nat.add_assoc]
    exact hactionBits j hj)
  have hbyte0 : matchModeCode r.mode ++ BitVec.ofNat 3 r.terms.length ++ BitVec.ofNat 3 r.actions.length =
      byteAt record 0 := by
    rw [htlen, halen, matchModeCode_of hmode]
    unfold recordTermCount recordActionCount
    rw [ofNat_three_toNat, ofNat_three_toNat, headByte_join]
  have hbyte1 : (0 : BitVec 3) ++ r.arrival = byteAt record 1 := by
    rw [harrival.1, limitByte_of_reserved _ hhead]
  have htwo : record.take 2 = [byteAt record 0, byteAt record 1] := by
    match record, (show 2 ≤ record.length by omega) with
    | a :: b :: rest, _ => rfl
  unfold ruleBytes
  rw [hbyte0, hbyte1, ← htwo, hterms', hactions', List.take_add, List.take_add]

end Admitted

/-! ## The first failing test -/

/-- The detail of a failure. -/
def failureOf {α : Type} : Except RuleDetail α → Option RuleDetail
  | .error d => some d
  | .ok _ => none

/-- The detail of the first test that fails, of a list of tests. -/
def firstFailing (tests : List RuleTest) : Option RuleDetail := (tests.find? (fun x => !x.passes)).map RuleTest.detail

theorem firstFailing_nil : firstFailing [] = none := rfl

theorem firstFailing_cons (x : RuleTest) (tests : List RuleTest) :
    firstFailing (x :: tests) = if x.passes then firstFailing tests else some x.detail := by
  unfold firstFailing
  rw [List.find?_cons]
  cases x.passes <;> rfl

theorem firstFailing_append (a b : List RuleTest) : firstFailing (a ++ b) = (firstFailing a).or (firstFailing b) := by
  induction a with
  | nil => rfl
  | cons x a ih =>
    rw [List.cons_append, firstFailing_cons, firstFailing_cons, ih]
    split <;> rfl

/-- A test of the reader is a test of the list when each fails where the other does, and what follows agrees. -/
theorem failureOf_test {α : Type} {bad pass : Prop} [Decidable bad] [Decidable pass] {d : RuleDetail}
    {e : Except RuleDetail α} {x : Option RuleDetail} (htest : bad ↔ ¬ pass) (hrest : failureOf e = x) :
    failureOf (if bad then .error d else e) = if pass then x else some d := by
  by_cases hpass : pass
  · rw [if_neg (fun hbad => htest.mp hbad hpass), if_pos hpass, hrest]
  · rw [if_pos (htest.mpr hpass), if_neg hpass]
    rfl

theorem selectorOf_none_iff : ∀ c : BitVec 4, selectorOf c = none ↔ ¬ c.toNat ≤ 8 := by decide

theorem selectorOf_payload_iff : ∀ c : BitVec 4, selectorOf c = some .payload ↔ c.toNat = 8 := by decide

theorem low_nibble : ∀ b : Byte, (b.extractLsb' 0 4).toNat = b.toNat % 16 := by decide

theorem high_nibble : ∀ b : Byte, (b.extractLsb' 4 4).toNat = b.toNat / 16 := by decide

theorem verdictOf_none_iff : ∀ b : Byte, verdictOf (b.extractLsb' 0 2) = none ↔ b.toNat % 4 = 3 := by decide

theorem verdictOf_steer_iff : ∀ b : Byte, verdictOf (b.extractLsb' 0 2) = some .steer ↔ b.toNat % 4 = 2 := by decide

theorem tagOpOf_none_iff : ∀ b : Byte, tagOpOf (b.extractLsb' 2 2) = none ↔ b.toNat / 4 % 4 = 3 := by decide

theorem tagOpOf_set_iff : ∀ b : Byte, tagOpOf (b.extractLsb' 2 2) = some .set ↔ b.toNat / 4 % 4 = 1 := by decide

theorem bit_six_iff : ∀ b : Byte, b.getLsbD 6 = true ↔ b.toNat / 64 % 2 = 1 := by decide

theorem bit_seven_iff : ∀ b : Byte, b.getLsbD 7 = true ↔ b.toNat / 128 = 1 := by decide

theorem matchModeOf_none_iff : ∀ b : Byte, matchModeOf (b.extractLsb' 6 2) = none ↔ b.toNat / 64 = 3 := by decide

theorem matchModeOf_firstOf_iff : ∀ b : Byte, matchModeOf (b.extractLsb' 6 2) = some .firstOf ↔ b.toNat / 64 = 2 := by
  decide

theorem low_five : ∀ b : Byte, b.extractLsb' 0 5 = 0 ↔ b.toNat % 32 = 0 := by decide

theorem termCount_eq : ∀ b : Byte, (b.extractLsb' 3 3).toNat = b.toNat / 8 % 8 := by decide

theorem actionCount_eq : ∀ b : Byte, (b.extractLsb' 0 3).toNat = b.toNat % 8 := by decide

theorem toNat_wordOf (a b : Byte) : (wordOf a b).toNat = a.toNat * 256 + b.toNat := by
  have ha := a.isLt
  have hb := b.isLt
  rw [wordOf_eq_ofNat, BitVec.toNat_ofNat, Nat.mod_eq_of_lt (by omega)]

/-- Tests 5 and 6 are the reader's (R16). -/
theorem failureOf_readTerm (record : List Byte) (k o : Nat) :
    failureOf (readTerm k (record.drop o)) = firstFailing (termTests record k o) := by
  unfold readTerm termTests
  simp only [byteAt_drop, Nat.add_zero, firstFailing_cons, firstFailing_nil, ← low_nibble, decide_eq_true_eq]
  cases hsel : selectorOf ((byteAt record o).extractLsb' 0 4) with
  | none => rw [if_neg ((selectorOf_none_iff _).mp hsel)]; rfl
  | some sel =>
    have hle : ((byteAt record o).extractLsb' 0 4).toNat ≤ 8 := by
      refine Classical.byContradiction (fun hgt => ?_)
      rw [(selectorOf_none_iff _).mpr hgt] at hsel
      cases hsel
    have hpayload : sel = .payload ↔ ((byteAt record o).extractLsb' 0 4).toNat = 8 := by
      rw [← selectorOf_payload_iff, hsel, Option.some.injEq]
    rw [if_pos hle]
    simp only [hpayload]
    exact failureOf_test (by omega) rfl

/-- Tests 7 to 12 are the reader's (R16). -/
theorem failureOf_readAction (record : List Byte) (k o : Nat) :
    failureOf (readAction k (record.drop o)) = firstFailing (actionTests record k o) := by
  unfold readAction actionTests
  simp only [byteAt_drop, Nat.add_zero, firstFailing_cons, firstFailing_nil, decide_eq_true_eq,
    low_nibble, high_nibble, bit_six_iff, bit_seven_iff, wordAt, toNat_wordOf]
  cases hverdict : verdictOf ((byteAt record o).extractLsb' 0 2) with
  | none => rw [if_neg (by rw [verdictOf_none_iff] at hverdict; omega)]; rfl
  | some verdict =>
    have hknown : (byteAt record o).toNat % 4 ≠ 3 := fun h3 => by
      rw [(verdictOf_none_iff _).mpr h3] at hverdict
      cases hverdict
    have hsteer : verdict = .steer ↔ (byteAt record o).toNat % 4 = 2 := by
      rw [← verdictOf_steer_iff, hverdict, Option.some.injEq]
    rw [if_pos hknown]
    simp only [hsteer]
    refine failureOf_test (by omega) (failureOf_test (by omega) ?_)
    cases htagOp : tagOpOf ((byteAt record o).extractLsb' 2 2) with
    | none => rw [if_neg (by rw [tagOpOf_none_iff] at htagOp; omega)]; rfl
    | some tagOp =>
      have hknownTag : (byteAt record o).toNat / 4 % 4 ≠ 3 := fun h3 => by
        rw [(tagOpOf_none_iff _).mpr h3] at htagOp
        cases htagOp
      have hset : tagOp = .set ↔ (byteAt record o).toNat / 4 % 4 = 1 := by
        rw [← tagOpOf_set_iff, htagOp, Option.some.injEq]
      rw [if_pos hknownTag]
      simp only [hset]
      exact failureOf_test (by omega) (failureOf_test (by omega) rfl)

/-- The terms' tests in their order are the reader's. -/
theorem failureOf_readTerms (record : List Byte) (n k o : Nat) :
    failureOf (readTerms n k (record.drop (o + 6 * k))) =
      firstFailing ((List.range' k n).flatMap (fun j => termTests record j (o + 6 * j))) := by
  induction n generalizing k with
  | zero => rfl
  | succ n ih =>
    rw [List.range'_succ, List.flatMap_cons, firstFailing_append, ← failureOf_readTerm, ← ih]
    simp only [readTerms]
    rw [List.drop_drop, show o + 6 * k + 6 = o + 6 * (k + 1) by omega]
    cases readTerm k (record.drop (o + 6 * k)) with
    | error d => rfl
    | ok t => cases readTerms n (k + 1) (record.drop (o + 6 * (k + 1))) <;> rfl

theorem failureOf_readActions (record : List Byte) (n k o : Nat) :
    failureOf (readActions n k (record.drop (o + 6 * k))) =
      firstFailing ((List.range' k n).flatMap (fun j => actionTests record j (o + 6 * j))) := by
  induction n generalizing k with
  | zero => rfl
  | succ n ih =>
    rw [List.range'_succ, List.flatMap_cons, firstFailing_append, ← failureOf_readAction, ← ih]
    simp only [readActions]
    rw [List.drop_drop, show o + 6 * k + 6 = o + 6 * (k + 1) by omega]
    cases readAction k (record.drop (o + 6 * k)) with
    | error d => rfl
    | ok t => cases readActions n (k + 1) (record.drop (o + 6 * (k + 1))) <;> rfl

/-- The reader fails with the first failing test of R16, and passes where none fails. -/
theorem failureOf_readRuleRecord (record : List Byte) : failureOf (readRuleRecord record) = firstFailure record := by
  have hterms : ∀ n, failureOf (readTerms n 0 (record.drop 2)) =
      firstFailing ((List.range n).flatMap (fun k => termTests record k (2 + 6 * k))) := fun n => by
    rw [List.range_eq_range']
    exact failureOf_readTerms record n 0 2
  have hactions : ∀ n o, failureOf (readActions n 0 (record.drop o)) =
      firstFailing ((List.range n).flatMap (fun k => actionTests record k (o + 6 * k))) := fun n o => by
    rw [List.range_eq_range']
    exact failureOf_readActions record n 0 o
  show _ = firstFailing (ruleTests record)
  unfold readRuleRecord ruleTests recordTermCount recordActionCount
  simp only [List.cons_append, List.nil_append, firstFailing_cons, firstFailing_append,
    decide_eq_true_eq, termCount_eq, actionCount_eq, ← hterms, ← hactions]
  cases hmode : matchModeOf ((byteAt record 0).extractLsb' 6 2) with
  | none => rw [if_neg (by rw [matchModeOf_none_iff] at hmode; omega)]; rfl
  | some mode =>
    have hknown : (byteAt record 0).toNat / 64 ≠ 3 := fun h3 => by
      rw [(matchModeOf_none_iff _).mpr h3] at hmode
      cases hmode
    have hfirstOf : mode = .firstOf ↔ (byteAt record 0).toNat / 64 = 2 := by
      rw [← matchModeOf_firstOf_iff, hmode, Option.some.injEq]
    rw [if_pos hknown]
    simp only [hfirstOf, low_five]
    refine failureOf_test (by omega) (failureOf_test Iff.rfl (failureOf_test Classical.not_not.symm ?_))
    cases readTerms ((byteAt record 0).toNat / 8 % 8) 0 (record.drop 2) with
    | error d => rfl
    | ok ts =>
      cases readActions ((byteAt record 0).toNat % 8) 0 (record.drop (2 + 6 * ((byteAt record 0).toNat / 8 % 8))) <;> rfl

/-- The reader refuses a record with the first failing test's detail. -/
theorem readRuleRecord_error {record : List Byte} {d : RuleDetail} (h : firstFailure record = some d) :
    readRuleRecord record = .error d := by
  rw [← failureOf_readRuleRecord] at h
  cases hread : readRuleRecord record with
  | error e => rw [hread] at h; cases h; rfl
  | ok r => rw [hread] at h; cases h

/-- Settles O15: the record written and read back, the record read and written back, and the tests in R16's order. -/
theorem ruleRecordRoundTrip : Obligations.RuleRecordRoundTrip := by
  unfold Obligations.RuleRecordRoundTrip
  refine ⟨fun r hr => ⟨readRuleRecord_ruleBytes hr, recordLength_ruleBytes hr, recordReservedClear_ruleBytes hr⟩,
    fun record r h hlen hclear => ⟨ruleOk_of_readRuleRecord h, ruleBytes_of_readRuleRecord h hlen hclear⟩,
    fun record => ⟨fun d hd => readRuleRecord_error hd, fun hnone => ?passes⟩⟩
  case passes =>
    rw [← failureOf_readRuleRecord] at hnone
    cases hread : readRuleRecord record with
    | error d => rw [hread] at hnone; cases hnone
    | ok r => exact ⟨r, rfl⟩

end Sys2Proof.Machine
end

section
/-! SUPPORT. Both banks keep their form and their rules stay legal (R1, R15, R16). -/

namespace Sys2Proof.Safety

open Sys2Proof.Machine

variable {s t : State}

/-- A bank in form, with legal rules. -/
def BankOk (k : Bank) : Prop :=
  (rising k.positions = true ∧ keysBelow Config.positionCount k.positions) ∧ ∀ e ∈ k.positions, RuleOk e.2.rule

/-- Both banks in form, with legal rules. -/
def RuleListOk (s : State) : Prop := ∀ name, BankOk (s.rules.bank name)

theorem ruleListOk_iff : RuleListOk s ↔ BanksOk s ∧ RulesOk s := by
  constructor
  · intro h
    exact ⟨⟨(h .a).1, (h .b).1⟩, (h .a).2, (h .b).2⟩
  · rintro ⟨hform, hlegal⟩ name
    cases name
    · exact ⟨hform.1, hlegal.1⟩
    · exact ⟨hform.2, hlegal.2⟩

/-! ## One bank -/

theorem BankOk.put {k : Bank} {n : Nat} {x : Position} (h : BankOk k) (hn : n < Config.positionCount)
    (hx : RuleOk x.rule) : BankOk { k with positions := put n x k.positions } := by
  obtain ⟨⟨hrise, hkeys⟩, hlegal⟩ := h
  refine ⟨⟨rising_put hrise, keysBelow_put hkeys hn⟩, fun e he => ?_⟩
  rcases mem_put he with rfl | he
  · exact hx
  · exact hlegal e he

theorem BankOk.remove {k : Bank} {n : Nat} (h : BankOk k) : BankOk { k with positions := remove n k.positions } :=
  ⟨⟨rising_remove h.1.1, keysBelow_remove h.1.2⟩, fun e he => h.2 e (mem_remove he)⟩

theorem BankOk.empty (k : Header) : BankOk ⟨k, []⟩ := ⟨⟨rfl, fun _ he => nomatch he⟩, fun _ he => nomatch he⟩

/-- Counters changed and rules kept: the form and the legality stay. -/
theorem BankOk.mapValues {k : Bank} {f : Position → Position} (h : BankOk k) (hf : ∀ x, (f x).rule = x.rule) :
    BankOk { k with positions := mapValues f k.positions } := by
  obtain ⟨⟨hrise, hkeys⟩, hlegal⟩ := h
  refine ⟨⟨rising_mapValues f hrise, fun e he => ?_⟩, fun e he => ?_⟩ <;> obtain ⟨e', he', rfl⟩ := List.mem_map.mp he
  · exact hkeys e' he'
  · show RuleOk (f e'.2).rule
    rw [hf]
    exact hlegal e' he'

/-- A hit keeps its bank: the position that counts holds a legal rule already. -/
theorem BankOk.hit {k : Bank} (h : BankOk k) (n : Nat) : BankOk (k.hit n) := by
  unfold Bank.hit
  split
  · exact h
  · next x hx => exact h.put (keysBelow_lookup h.1.2 hx) (h.2 (n, x) (lookup_mem hx))

theorem RuleListOk.setBank {r : RuleList} (h : ∀ name, BankOk (r.bank name)) {name : BankName} {k : Bank} (hk : BankOk k) :
    ∀ m, BankOk ((r.setBank name k).bank m) := by
  intro m
  cases name <;> cases m
  · exact hk
  · exact h .b
  · exact h .a
  · exact hk

theorem RuleListOk.standby {k : Bank} (h : RuleListOk s) (hk : BankOk k) : RuleListOk (s.setStandby k) :=
  RuleListOk.setBank h hk

/-! ## The shared operations: they leave the Rule List alone -/

/-- What is said of the Rule List alone is kept where the Rule List is. -/
theorem RuleListOk.of_rules (h : RuleListOk s) (e : t.rules = s.rules) : RuleListOk t := by
  unfold RuleListOk
  rw [e]
  exact h

theorem RuleListOk.common : KeptInCommon RuleListOk where
  egress := fun _ _ _ h => h
  count := fun _ _ _ h => h
  report := fun s n h => h.of_rules (reportEnd_only s .t n).rules
  release := fun s n h => h.of_rules (releaseRef_only s .t n).rules
  addRef := fun s n h => h.of_rules (addRef_only s .t n).rules
  fill := fun _ _ _ _ h => h
  agent := fun _ _ h => h
  notices := fun _ _ h => h
  device := fun _ _ h => h
  choices := fun _ _ h => h
  rewrite := fun s n f h => by
    rcases rewriteSlot_cases s n f with ⟨_, e⟩ | ⟨x, _, e⟩ <;> rw [e] <;> exact h
  awaiting := fun _ _ _ h => h

theorem trunkLeavesActive_rules (s : State) : s.trunkLeavesActive.rules = s.rules := by
  rcases trunkLeavesActive_cases s with ⟨_, e⟩ | ⟨_, e⟩ <;> rw [e]
  rw [(loseSync_only s 1).1]

theorem claimSlot_rules (s : State) (p : Port) (f : Frame) : (s.claimSlot p f).rules = s.rules := by
  rcases claimSlot_cases s p f with ⟨-, e⟩ | ⟨-, -, e⟩ | ⟨-, n, -, e⟩ <;> rw [e] <;> rfl

theorem RuleListOk.ports : KeptByPorts RuleListOk where
  toKeptByEgress := RuleListOk.common.toKeptByEgress
  setPort := fun _ _ _ h => h
  trunk := fun s h => h.of_rules (trunkLeavesActive_rules s)
  forget := fun _ _ h => h
  claimSlot := fun s p f h => h.of_rules (claimSlot_rules s p f)
  discard := fun _ h => h
  raise := fun _ _ _ h => h

theorem RuleListOk.countHit (h : RuleListOk s) (d : Decision) : RuleListOk (countHit d s) := by
  unfold Machine.countHit
  split
  · exact h
  · exact RuleListOk.setBank h ((h _).hit _)

theorem RuleListOk.classifier (n : Nat) : KeptByClassifier n RuleListOk :=
  RuleListOk.common.classifier
    (fun s _ h => by rw [(trunkSync_only s).1]; exact h)
    (fun s a p h => by rw [learn_only s a p]; exact h)
    (fun _ d h => h.countHit d)
    (fun s k c h => by rw [consult_only s k c]; exact h)

/-! ## Commands and events -/

theorem RuleListOk.restartTraffic (h : RuleListOk s) : RuleListOk s.restartTraffic := by
  have hstopped := RuleListOk.common.stopAll h
  unfold State.restartTraffic
  generalize s.stopAll = u at hstopped
  intro name
  cases name
  · exact (hstopped .a).mapValues (fun _ => rfl)
  · exact (hstopped .b).mapValues (fun _ => rfl)

theorem RuleListOk.startReset (h : RuleListOk s) (count : Nat) : RuleListOk (s.startReset count) := by
  have hstopped := RuleListOk.common.stopAll h
  unfold State.startReset
  generalize s.stopAll = u at hstopped
  intro name
  cases name
  · exact hstopped .a
  · exact hstopped .b

theorem RuleListOk.beginStarting (h : RuleListOk s) : RuleListOk s.beginStarting := h

theorem RuleListOk.command {r : Request} (h : RuleListOk s) (he : CommandEffect r s t) : RuleListOk t := by
  cases he
  case setPort => exact RuleListOk.ports.applyMode h
  case header => exact h.standby (h _)
  case writeRule n record rule hn hr => exact h.standby ((h _).put hn (ruleOk_of_readRuleRecord hr))
  case clearRules => exact h.standby (BankOk.empty _)
  case clearRule => exact h.standby (h _).remove
  case copy =>
    intro name
    cases name
    · exact h .a
    · exact h .b
  case switch =>
    intro name
    cases name
    · exact h .a
    · exact h .b
  case ack => exact RuleListOk.common.settleReady h
  case setNotice => exact RuleListOk.common.settleReady h
  case traffic => exact h.restartTraffic
  all_goals exact h

theorem RuleListOk.event (h : RuleListOk s) (he : EventEffect s t) : RuleListOk t := by
  cases he
  case request r f a _ ha => exact RuleListOk.common.completeRequest (h.command ha)
  case restartFull r f a _ ha => exact RuleListOk.common.completeRequest (by rw [ha]; exact h)
  case resetLow => exact RuleListOk.common.device _ _ (h.startReset 0)
  case restartPoint => exact (h.startReset _).beginStarting
  case sweep => intro name; cases name <;> exact BankOk.empty _
  case startMark => exact RuleListOk.ports.receiveEnding h
  case endOfFrame => exact RuleListOk.ports.receiveEnding h
  case classified p n rest x _ _ _ => exact RuleListOk.common.release _ _ ((RuleListOk.classifier n).classify h)
  case transmitted => exact RuleListOk.common.finishTransmission h
  case copied =>
    have himage : RuleListOk (s.setStandby (s.rules.bank s.rules.working).copied) :=
      h.standby ((h _).mapValues (fun _ => rfl))
    intro name
    cases name
    · exact himage .a
    · exact himage .b
  case syncExpired =>
    rw [(loseSync_only s 0).1]
    exact h
  case served => exact RuleListOk.common.takeService h
  case millisecond =>
    unfold State.millisecond
    split <;> exact h
  all_goals exact h

/-- Settles O54, over every event's effect. -/
theorem stepKeepsTheBanks : Obligations.StepKeepsTheBanks := by
  unfold Obligations.StepKeepsTheBanks
  intro s t hbanks hrules hstep
  obtain ⟨rest, heffect⟩ := step_effect hstep
  have hform : RuleListOk { s with pending := rest } := ruleListOk_iff.mpr ⟨hbanks, hrules⟩
  exact ruleListOk_iff.mp (hform.event heffect)

end Sys2Proof.Safety
end

section
/-! SUPPORT. The Meter bank keeps its 32 meters, each with its credit within the ceiling, its arm state and its period timer
as its mode calls for (R72, R73, R77 to R79, R82). -/

namespace Sys2Proof.Safety

open Sys2Proof.Machine

variable {s t : State}

/-- What holds of one meter while the gate is OPEN or not. -/
structure MeterOk (gateOpen : Bool) (m : Meter) : Prop where
  credit : m.credit ≤ m.ceiling
  arm : m.mode = .single ∨ m.mode = .off ∨ m.arm = .armed
  timer : m.timer.isSome = true ↔ m.mode = .continuous ∨ (m.mode = .gated ∧ gateOpen = true)

/-- What holds of the Meter bank. -/
def MeterBankOk (s : State) : Prop :=
  s.meters.meters.length = Config.meterCount ∧ ∀ m ∈ s.meters.meters, MeterOk s.meters.gateOpen m

theorem meterBankOk_iff : MeterBankOk s ↔ MetersOk s ∧ ArmOk s ∧ PeriodTimersOk s := by
  constructor
  · rintro ⟨hlen, hok⟩
    exact ⟨⟨hlen, fun m hm => (hok m hm).credit⟩, fun m hm => (hok m hm).arm, fun m hm => (hok m hm).timer⟩
  · rintro ⟨⟨hlen, hcredit⟩, harm, htimer⟩
    exact ⟨hlen, fun m hm => ⟨hcredit m hm, harm m hm, htimer m hm⟩⟩

/-! ## One meter -/

section Meter

variable {m : Meter} {g : Bool}

theorem MeterOk.zero (g : Bool) : MeterOk g .zero := ⟨Nat.le_refl _, .inr (.inl rfl), by simp [Meter.zero]⟩

theorem MeterOk.onGate (h : MeterOk g m) (isOpen : Bool) : MeterOk isOpen (m.onGate isOpen) := by
  unfold Meter.onGate
  split
  · next hm => exact ⟨h.credit, h.arm, by cases isOpen <;> simp [hm]⟩
  · next hm => exact ⟨h.credit, h.arm, by simpa [hm] using h.timer⟩

/-- A refill with a full period keeps a meter whose period runs. -/
theorem MeterOk.onExpiry (h : MeterOk g m) (ht : m.timer.isSome = true) : MeterOk g m.onExpiry :=
  ⟨Nat.min_le_left _ _, h.arm, ⟨fun _ => h.timer.mp ht, fun _ => rfl⟩⟩

/-- A trunk SYNC event finds the gate OPEN, so that a triggered meter's period runs (R79, R81). -/
theorem MeterOk.onSync (h : MeterOk true m) : MeterOk true m.onSync := by
  unfold Meter.onSync
  split
  · split
    · exact h
    · next hm => exact ⟨Nat.le_refl _, .inl hm, h.timer⟩
    · next hm => exact h.onExpiry (h.timer.mpr (.inl hm))
    · next hm => exact h.onExpiry (h.timer.mpr (.inr ⟨hm, rfl⟩))
  · exact h

theorem MeterOk.charge (h : MeterOk g m) (cost : Nat) : MeterOk g (m.charge cost) :=
  ⟨Nat.le_trans (Nat.sub_le _ _) h.credit, h.arm, h.timer⟩

theorem MeterOk.overrun (h : MeterOk g m) : MeterOk g m.overrun := by
  refine ⟨h.credit, ?_, h.timer⟩
  by_cases hm : m.mode = .single
  · exact .inl hm
  · show _ ∨ _ ∨ (if m.mode = .single then ArmState.spent else m.arm) = _
    rw [if_neg hm]
    exact h.arm

theorem startTimer_isSome (mode : MeterMode) (period : Nat) (g : Bool) :
    (startTimer mode period g).isSome = true ↔ mode = .continuous ∨ (mode = .gated ∧ g = true) := by
  cases mode <;> cases g <;> simp [startTimer]

theorem MeterOk.restartTraffic (g : Bool) (m : Meter) : MeterOk g (m.restartTraffic g) :=
  ⟨Nat.le_refl _, .inr (.inr rfl), startTimer_isSome _ _ _⟩

theorem MeterOk.startReset (h : MeterOk g m) : MeterOk false m.startReset :=
  ⟨h.credit, .inr (.inl rfl), by simp [Meter.startReset]⟩

theorem countPeriod_isSome (t : Option Nat) : (countPeriod t).isSome = t.isSome := by cases t <;> rfl

/-- What SET_METER makes: the zero configuration, or a meter at its ceiling whose timer its mode and the gate start (R83). -/
theorem MeterOk.configured {payload : List Byte} (h : configuredMeter payload g = some m) : MeterOk g m := by
  unfold configuredMeter at h
  simp only at h
  split at h
  · cases h
  · cases h; exact .zero g
  · split at h
    · split at h
      · cases h
        exact ⟨Nat.le_refl _, .inr (.inr rfl), startTimer_isSome _ _ _⟩
      · cases h
    · cases h

end Meter

/-! ## The bank -/

theorem MeterBankOk.map {f : Meter → Meter} {g : Bool} (h : MeterBankOk s)
    (hf : ∀ m, MeterOk s.meters.gateOpen m → MeterOk g (f m)) :
    MeterBankOk { s with meters := ⟨s.meters.meters.map f, g⟩ } := by
  refine ⟨by simpa using h.1, fun m hm => ?_⟩
  obtain ⟨m', hm', rfl⟩ := List.mem_map.mp hm
  exact hf m' (h.2 m' hm')

theorem MeterBankOk.setMeter {n : Nat} {m : Meter} (h : MeterBankOk s) (hm : MeterOk s.meters.gateOpen m) :
    MeterBankOk (s.setMeter n m) := by
  refine ⟨by simpa [State.setMeter] using h.1, fun m' hm' => ?_⟩
  rcases List.mem_or_eq_of_mem_set hm' with hold | rfl
  · exact h.2 m' hold
  · exact hm

/-- A number reads a meter of the bank, or the zero configuration. -/
theorem MeterBankOk.meter (h : MeterBankOk s) (n : Nat) : MeterOk s.meters.gateOpen (s.meter n) := by
  unfold State.meter
  by_cases hn : n < s.meters.meters.length
  · rw [List.getD_eq_getElem?_getD, List.getElem?_eq_getElem hn]
    exact h.2 _ (List.getElem_mem hn)
  · rw [List.getD_eq_getElem?_getD, List.getElem?_eq_none (Nat.le_of_not_lt hn)]
    exact .zero _

theorem MeterBankOk.setGate (h : MeterBankOk s) (isOpen : Bool) : MeterBankOk (s.setGate isOpen) := by
  unfold State.setGate
  split
  · exact h
  · exact h.map (fun m hm => hm.onGate isOpen)

theorem MeterBankOk.of_meters (h : MeterBankOk s) (e : t.meters = s.meters) : MeterBankOk t := by
  unfold MeterBankOk
  rw [e]
  exact h

theorem MeterBankOk.loseSync (h : MeterBankOk s) (detail : Word) : MeterBankOk (s.loseSync detail) :=
  MeterBankOk.setGate (s := State.raise { s with sync := { s.sync with locked := false, timer := none } } .syncLost detail)
    h false

theorem MeterBankOk.trunkLeavesActive (h : MeterBankOk s) : MeterBankOk s.trunkLeavesActive := by
  rcases trunkLeavesActive_cases s with ⟨_, e⟩ | ⟨_, e⟩ <;> rw [e]
  · exact h.loseSync 1
  · exact h

theorem MeterBankOk.trunkSync (h : MeterBankOk s) : MeterBankOk s.trunkSync := by
  unfold State.trunkSync
  have hgate := setGate_only { s with sync := { s.sync with locked := true, timer := some s.sync.timeout } } true
  have hopened : MeterBankOk (State.setGate { s with sync := { s.sync with locked := true, timer := some s.sync.timeout } }
      true) := MeterBankOk.setGate (s := { s with sync := { s.sync with locked := true, timer := some s.sync.timeout } }) h true
  generalize State.setGate _ true = u at hgate hopened
  have hopen := hgate.2
  refine hopened.map (fun m hm => ?_)
  rw [hopen] at hm ⊢
  exact hm.onSync

theorem MeterBankOk.consult (h : MeterBankOk s) (n cost : Nat) : MeterBankOk (s.consult n cost).2 := by
  unfold State.consult
  simp only
  split
  · exact h
  · split
    · exact h.setMeter ((h.meter n).charge cost)
    · simp only
      split <;> exact h.setMeter (h.meter n).overrun

theorem MeterBankOk.common : KeptInCommon MeterBankOk where
  egress := fun _ _ _ h => h
  count := fun _ _ _ h => h
  report := fun s n h => h.of_meters (reportEnd_only s .t n).meters
  release := fun s n h => h.of_meters (releaseRef_only s .t n).meters
  addRef := fun s n h => h.of_meters (addRef_only s .t n).meters
  fill := fun _ _ _ _ h => h
  agent := fun _ _ h => h
  notices := fun _ _ h => h
  device := fun _ _ h => h
  choices := fun _ _ h => h
  rewrite := fun s n f h => by
    rcases rewriteSlot_cases s n f with ⟨_, e⟩ | ⟨x, _, e⟩ <;> rw [e] <;> exact h
  awaiting := fun _ _ _ h => h

theorem claimSlot_meters (s : State) (p : Port) (f : Frame) : (s.claimSlot p f).meters = s.meters := by
  rcases claimSlot_cases s p f with ⟨-, e⟩ | ⟨-, -, e⟩ | ⟨-, n, -, e⟩ <;> rw [e] <;> rfl

theorem MeterBankOk.ports : KeptByPorts MeterBankOk where
  toKeptByEgress := MeterBankOk.common.toKeptByEgress
  setPort := fun _ _ _ h => h
  trunk := fun _ h => h.trunkLeavesActive
  forget := fun _ _ h => h
  claimSlot := fun s p f h => h.of_meters (claimSlot_meters s p f)
  discard := fun _ h => h
  raise := fun _ _ _ h => h

theorem MeterBankOk.classifier (n : Nat) : KeptByClassifier n MeterBankOk :=
  MeterBankOk.common.classifier (fun _ _ h => h.trunkSync)
    (fun s a p h => by rw [learn_only s a p]; exact h)
    (fun s d h => by rw [countHit_only d s]; exact h)
    (fun _ k c h => h.consult k c)

/-! ## Commands and events -/

theorem MeterBankOk.restartTraffic (h : MeterBankOk s) : MeterBankOk s.restartTraffic := by
  have hstopped := MeterBankOk.common.stopAll h
  unfold State.restartTraffic
  generalize s.stopAll = u at hstopped
  exact hstopped.map (fun m _ => .restartTraffic _ m)

theorem MeterBankOk.startReset (h : MeterBankOk s) (count : Nat) : MeterBankOk (s.startReset count) := by
  have hstopped := MeterBankOk.common.stopAll h
  unfold State.startReset
  generalize s.stopAll = u at hstopped
  exact hstopped.map (fun m hm => hm.startReset)

theorem MeterBankOk.beginStarting (h : MeterBankOk s) : MeterBankOk s.beginStarting := h

theorem MeterBankOk.command {r : Request} (h : MeterBankOk s) (he : CommandEffect r s t) : MeterBankOk t := by
  cases he
  case setPort => exact MeterBankOk.ports.applyMode h
  case setMeter n payload m hn hm => exact h.setMeter (.configured hm)
  case rearm n hn hm => exact h.setMeter ⟨Nat.le_refl _, .inl hm, (h.meter n).timer⟩
  case clearMeter n hn => exact h.setMeter ⟨(h.meter n).credit, (h.meter n).arm, (h.meter n).timer⟩
  case ack => exact MeterBankOk.common.settleReady h
  case setNotice => exact MeterBankOk.common.settleReady h
  case traffic => exact h.restartTraffic
  all_goals exact h

theorem MeterBankOk.event (h : MeterBankOk s) (he : EventEffect s t) : MeterBankOk t := by
  cases he
  case request r f a _ ha => exact MeterBankOk.common.completeRequest (h.command ha)
  case restartFull r f a _ ha => exact MeterBankOk.common.completeRequest (by rw [ha]; exact h)
  case resetLow => exact MeterBankOk.common.device _ _ (h.startReset 0)
  case restartPoint => exact (h.startReset _).beginStarting
  case sweep =>
    refine ⟨List.length_replicate, fun m hm => ?_⟩
    rw [List.eq_of_mem_replicate hm]
    exact .zero _
  case startMark => exact MeterBankOk.ports.receiveEnding h
  case endOfFrame => exact MeterBankOk.ports.receiveEnding h
  case classified p n rest x _ _ _ => exact MeterBankOk.common.release _ _ ((MeterBankOk.classifier n).classify h)
  case transmitted => exact MeterBankOk.common.finishTransmission h
  case syncExpired => exact h.loseSync 0
  case period n _ _ ht => exact h.setMeter ((h.meter n).onExpiry ht)
  case served => exact MeterBankOk.common.takeService h
  case millisecond =>
    unfold State.millisecond
    split
    · exact h
    · exact h.map (fun m hm => ⟨hm.credit, hm.arm, by rw [countPeriod_isSome]; exact hm.timer⟩)
  all_goals exact h

/-- Settles O55, over every event's effect. -/
theorem stepKeepsTheMeters : Obligations.StepKeepsTheMeters := by
  unfold Obligations.StepKeepsTheMeters
  intro s t hmeters harm htimers hstep
  obtain ⟨rest, heffect⟩ := step_effect hstep
  have hbank : MeterBankOk { s with pending := rest } := meterBankOk_iff.mpr ⟨hmeters, harm, htimers⟩
  exact meterBankOk_iff.mp (hbank.event heffect)

end Sys2Proof.Safety
end

section
/-! SUPPORT. Port states follow their commanded modes, and the gate and the sync timer follow the lock (R80, R120, R127, R131
to R133). -/

namespace Sys2Proof.Safety

open Sys2Proof.Machine

variable {s t u : State} {p : Port}

/-- The forms that the step keeps together. -/
def PortLockOk (s : State) : Prop := PortStatesOk s ∧ GateOk s ∧ SyncTimerOk s

/-- One port's state and its commanded mode (R120, R127). -/
def UnitStateOk (v : PortUnit) : Prop :=
  v.state = v.commanded.toState ∨ (v.state = .blocked ∧ v.commanded ≠ .disabled)

/-- The lock is UNLOCKED, its timer stopped, the gate closed. -/
def Unlocked (s : State) : Prop := s.sync.locked = false ∧ s.sync.timer = none ∧ s.meters.gateOpen = false

/-- The lock and the gate stand as they stood. -/
def SameLock (s t : State) : Prop := t.sync = s.sync ∧ t.meters.gateOpen = s.meters.gateOpen

theorem SameLock.refl (s : State) : SameLock s s := ⟨rfl, rfl⟩

theorem SameLock.trans (h : SameLock s t) (g : SameLock t u) : SameLock s u := ⟨g.1.trans h.1, g.2.trans h.2⟩

theorem EgressOnly.sameLock {l : List Nat} (h : EgressOnly p l s t) : SameLock s t := ⟨h.sync, by rw [h.meters]⟩

theorem EgressOnly.sameStates {l : List Nat} (h : EgressOnly p l s t) : SameStates s t := fun q => by
  refine ⟨h.state_eq q, ?_⟩
  by_cases hq : q = p
  · subst hq
    rw [h.unit]
  · rw [h.others q hq]

/-- The forms stand on port states, commanded modes, the lock and the gate alone. -/
theorem PortLockOk.of_same (h : PortLockOk s) (hstates : SameStates s t) (hlock : SameLock s t) : PortLockOk t := by
  obtain ⟨⟨hports, htrunk⟩, ⟨hgate, hactive⟩, htimer⟩ := h
  obtain ⟨hsync, hopen⟩ := hlock
  refine ⟨⟨fun q => ?_, by rw [(hstates .t).1]; exact htrunk⟩, ⟨by rw [hopen, hsync]; exact hgate, ?_⟩, ?_⟩
  · rw [(hstates q).1, (hstates q).2]
    exact hports q
  · rw [hsync, (hstates .t).1]
    exact hactive
  · unfold SyncTimerOk
    rw [hsync]
    exact htimer

/-- One port takes a state: the forms hold when it fits its mode, T is not BLOCKED by it, and the lock is lost unless T stays
ACTIVE where it was. -/
theorem PortLockOk.changed (h : PortLockOk s) (hothers : ∀ q, q ≠ p → u.port q = s.port q) (hunit : UnitStateOk (u.port p))
    (htrunk : p = .t → (u.port p).state ≠ .blocked)
    (hlock : Unlocked u ∨
      (SameLock s u ∧ (p = .t → (s.port .t).state = .active → (u.port p).state = .active))) : PortLockOk u := by
  obtain ⟨⟨hports, hnotBlocked⟩, ⟨hgate, hactive⟩, htimer⟩ := h
  refine ⟨⟨fun q => ?_, ?_⟩, ?_⟩
  · by_cases hq : q = p
    · subst hq
      exact hunit
    · rw [hothers q hq]
      exact hports q
  · by_cases hp : p = .t
    · subst hp
      exact htrunk rfl
    · rw [hothers .t (Ne.symm hp)]
      exact hnotBlocked
  · rcases hlock with ⟨hlocked, hstopped, hclosed⟩ | ⟨⟨hsync, hopen⟩, hstays⟩
    · exact ⟨⟨by rw [hclosed, hlocked], fun hl => by rw [hlocked] at hl; cases hl⟩, by
        unfold SyncTimerOk; rw [hstopped, hlocked]; rfl⟩
    · refine ⟨⟨by rw [hopen, hsync]; exact hgate, fun hl => ?_⟩, by unfold SyncTimerOk; rw [hsync]; exact htimer⟩
      have hwas := hactive (by rw [← hsync]; exact hl)
      by_cases hp : p = .t
      · subst hp
        exact hstays rfl hwas
      · rw [hothers .t (Ne.symm hp)]
        exact hwas

/-! ## The lock -/

theorem trunkLeavesActive_ports (s : State) : s.trunkLeavesActive.ports = s.ports := by
  rcases trunkLeavesActive_cases s with ⟨_, e⟩ | ⟨_, e⟩ <;> rw [e]
  rw [(loseSync_only s 1).1]

theorem loseSync_unlocked (s : State) (detail : Word) : Unlocked (s.loseSync detail) := by
  obtain ⟨e, hclosed⟩ := loseSync_only s detail
  refine ⟨?_, ?_, hclosed⟩ <;> rw [e]

/-- Where the gate follows the lock, T's leaving ACTIVE leaves both shut. -/
theorem trunkLeavesActive_unlocked (h : s.meters.gateOpen = s.sync.locked) : Unlocked s.trunkLeavesActive := by
  rcases trunkLeavesActive_cases s with ⟨_, e⟩ | ⟨hl, e⟩ <;> rw [e]
  · exact loseSync_unlocked s 1
  · exact ⟨hl, rfl, h.trans hl⟩

theorem PortLockOk.loseSync (h : PortLockOk s) (detail : Word) : PortLockOk (s.loseSync detail) := by
  have hports : ∀ q, (s.loseSync detail).port q = s.port q := fun q => by rw [(loseSync_only s detail).1]; rfl
  refine h.changed (p := .t) (fun q _ => hports q) ?_ ?_ (.inl (loseSync_unlocked s detail)) <;> rw [hports]
  · exact h.1.1 .t
  · exact fun _ => h.1.2

theorem PortLockOk.trunkSync (h : PortLockOk s) (hactive : s.isActive .t = true) : PortLockOk s.trunkSync := by
  obtain ⟨e, hopen⟩ := trunkSync_only s
  refine ⟨?_, ⟨?_, fun _ => ?_⟩, ?_⟩
  · rw [e]; exact h.1
  · rw [hopen, e]
  · rw [e]; exact of_decide_eq_true hactive
  · rw [e]; rfl

/-! ## The shared operations -/

theorem PortLockOk.common : KeptInCommon PortLockOk where
  egress := fun _ _ _ h => h.of_same (.setPort rfl rfl) (.refl _)
  count := fun _ _ _ h => h.of_same (.setPort rfl rfl) (.refl _)
  report := fun s n h => h.of_same (reportEnd_only s .t n).sameStates (reportEnd_only s .t n).sameLock
  release := fun s n h => h.of_same (releaseRef_only s .t n).sameStates (releaseRef_only s .t n).sameLock
  addRef := fun s n h => h.of_same (addRef_only s .t n).sameStates (addRef_only s .t n).sameLock
  fill := fun _ _ _ _ h => h
  agent := fun _ _ h => h
  notices := fun _ _ h => h
  device := fun _ _ h => h
  choices := fun _ _ h => h
  rewrite := fun s n f h => by
    rcases rewriteSlot_cases s n f with ⟨_, e⟩ | ⟨x, _, e⟩ <;> rw [e] <;> exact h
  awaiting := fun _ _ _ h => h

theorem PortLockOk.classifier (n : Nat) : KeptByClassifier n PortLockOk :=
  PortLockOk.common.classifier (fun _ hactive h => h.trunkSync hactive)
    (fun s a p h => by rw [learn_only s a p]; exact h)
    (fun s d h => by rw [countHit_only d s]; exact h)
    (fun s k c h => by
      have hgate : (s.consult k c).2.meters.gateOpen = s.meters.gateOpen := by
        unfold State.consult
        simp only
        split
        · rfl
        · split
          · rfl
          · simp only
            split <;> rfl
      have e := consult_only s k c
      exact h.of_same (.of_ports (by rw [e])) ⟨by rw [e], hgate⟩)

/-! ## Leaving service and changing mode -/

/-- What leaving service does to the lock: T that was ACTIVE loses it, any other port leaves it alone (R133). -/
theorem leaveService_lock (hgate : s.meters.gateOpen = s.sync.locked) (new : PortState) :
    (p = .t ∧ (s.port p).state = .active ∧ Unlocked (s.leaveService p new)) ∨
      (¬ (p = .t ∧ (s.port p).state = .active) ∧ SameLock s (s.leaveService p new)) := by
  obtain ⟨hsync, hopen⟩ := (stopEgress_only s p).sameLock
  unfold State.leaveService State.isActive
  simp only [decide_eq_true_eq]
  split
  · next hc => exact .inl ⟨hc.1, hc.2, trunkLeavesActive_unlocked (by
      show (s.stopEgress p).meters.gateOpen = (s.stopEgress p).sync.locked
      rw [hsync, hopen]
      exact hgate)⟩
  · next hc => exact .inr ⟨hc, hsync, hopen⟩

/-- A port of a part in form, its unit written but for its state, leaves service in form. -/
theorem PortLockOk.leaveService {v : PortUnit} {new : PortState} (h : PortLockOk s) (hstate : v.state = (s.port p).state)
    (hunit : UnitStateOk { v with state := new }) (htrunk : p = .t → new ≠ .blocked) :
    PortLockOk ((s.setPort p v).leaveService p new) := by
  obtain ⟨hport, hothers⟩ := leaveService_ports (s.setPort p v) p new
  have hstopped := (stopEgress_only (s.setPort p v) p).unit
  rw [State.port_setPort_self] at hstopped
  refine h.changed (p := p) (fun q hq => by rw [hothers q hq, s.port_setPort_other hq]) ?_ (by rw [hport]; exact htrunk) ?_
  · rw [hport, hstopped]
    exact hunit
  · rcases leaveService_lock (s := s.setPort p v) (p := p) h.2.1.1 new with ⟨_, _, hlost⟩ | ⟨hkept, hsame⟩
    · exact .inl hlost
    · refine .inr ⟨hsame, fun hp hactive => absurd ⟨hp, ?_⟩ hkept⟩
      subst hp
      rw [State.port_setPort_self, hstate]
      exact hactive

theorem PortLockOk.setPort {v : PortUnit} (h : PortLockOk s) (hunit : UnitStateOk v) (htrunk : p = .t → v.state ≠ .blocked)
    (hstays : p = .t → (s.port .t).state = .active → v.state = .active) : PortLockOk (s.setPort p v) := by
  refine h.changed (p := p) (fun q hq => s.port_setPort_other hq v) ?_ ?_ (.inr ⟨.refl s, ?_⟩) <;>
    rw [State.port_setPort_self]
  · exact hunit
  · exact htrunk
  · exact hstays

theorem toState_ne_blocked (mode : Mode) : mode.toState ≠ .blocked := by cases mode <;> exact nofun

theorem PortLockOk.applyMode (h : PortLockOk s) (mode : Mode) : PortLockOk (s.applyMode p mode) := by
  have htrunk : p = .t → (s.port p).state ≠ .blocked := fun hp => by subst hp; exact h.1.2
  unfold State.applyMode
  simp only
  split
  · next hsame =>
    exact h.setPort (.inl hsame) htrunk (fun hp hactive => by subst hp; exact hactive)
  next hnew =>
  split
  · next hdisabled =>
    subst hdisabled
    split
    · next hblocked => exact h.setPort (.inl rfl) (fun _ => nofun) (fun hp _ => absurd hblocked (htrunk hp))
    · exact h.leaveService rfl (.inl rfl) (fun _ => nofun)
  · split
    · next hleaves =>
      obtain ⟨hp, -⟩ := hleaves
      subst hp
      have hport : ∀ v : PortUnit, (s.setPort .t v).trunkLeavesActive.port .t = v := fun v => by
        unfold State.port
        rw [trunkLeavesActive_ports]
        exact s.port_setPort_self .t v
      refine h.changed (p := .t) (fun q hq => ?_) ?_ ?_ (.inl (trunkLeavesActive_unlocked h.2.1.1))
      · unfold State.port
        rw [trunkLeavesActive_ports]
        exact s.port_setPort_other hq _
      · rw [hport]
        exact .inl rfl
      · rw [hport]
        exact fun _ => toState_ne_blocked mode
    · next hstays =>
      refine h.setPort (.inl rfl) (fun _ => toState_ne_blocked mode) (fun hp hactive => ?_)
      subst hp
      exact absurd ⟨rfl, hactive⟩ hstays

/-- A port in service was commanded LISTEN or ACTIVE (R120). -/
theorem PortLockOk.commanded (h : PortLockOk s) (hp : s.inService p = true) : (s.port p).commanded ≠ .disabled := by
  intro hdisabled
  unfold State.inService at hp
  rcases h.1.1 p with hstate | ⟨hstate, -⟩
  · rw [hstate, hdisabled] at hp
    cases hp
  · rw [hstate] at hp
    cases hp

/-! ## Reception -/

theorem PortLockOk.countError {c : Counter} (h : PortLockOk s) (hp : s.inService p = true) :
    PortLockOk (s.countError p c) := by
  have hcommanded := h.commanded hp
  unfold State.countError State.block
  simp only [State.port_count_self]
  have hcounted := PortLockOk.common.count _ p c h
  split
  · next hlimit =>
    have hleft : PortLockOk (((s.count p c).setPort p
        { (s.count p c).port p with errorCount := satNext 255 (s.port p).errorCount }).leaveService p .blocked) :=
      hcounted.leaveService rfl
        (.inr ⟨rfl, by rw [State.port_count_self]; exact hcommanded⟩) (fun ht => absurd ht hlimit.1)
    rw [State.port_count_self] at hleft
    exact PortLockOk.common.notices _ _ (hleft.of_same (.setPort rfl rfl) (.refl _))
  · exact hcounted.of_same (.setPort (by rw [State.port_count_self]) (by rw [State.port_count_self])) (.refl _)

theorem PortLockOk.receiveEnding {ending : Ending} (h : PortLockOk s) (hp : s.inService p = true) :
    PortLockOk (s.receiveEnding p ending) := by
  have hidle : ∀ x, PortLockOk (s.setReceiver p x) := fun x => h.of_same (.setPort rfl rfl) (.refl _)
  have hjudged : ∀ stored n cutOff, PortLockOk ((s.setReceiver p .idle).judgeReception p stored n cutOff) := by
    intro stored n cutOff
    unfold State.judgeReception
    split
    · split
      · exact PortLockOk.common.count _ _ _ (hidle _)
      · split
        · refine PortLockOk.countError (hidle _) ?_
          unfold State.inService State.setReceiver
          rw [State.port_setPort_self]
          exact hp
        · next f _ =>
          have hcounted := PortLockOk.common.count _ p .rxGood (hidle .idle)
          rcases claimSlot_cases (State.count _ p .rxGood) p f with ⟨-, e⟩ | ⟨-, -, e⟩ | ⟨-, n, -, e⟩ <;> rw [e]
          · exact PortLockOk.common.count _ _ _ hcounted
          · exact PortLockOk.common.notices _ _ (PortLockOk.common.count _ _ _ hcounted)
          · exact hcounted
    · exact hidle _
  have hended : ∀ v, PortLockOk v → PortLockOk (if ending = .startMark then v.setReceiver p (.receiving [] 0) else v) := by
    intro v hv
    split
    · exact hv.of_same (.setPort rfl rfl) (.refl _)
    · exact hv
  unfold State.receiveEnding
  simp only
  apply hended
  split
  · exact h
  · exact hjudged _ _ _

/-! ## Commands and events -/

theorem PortLockOk.restartTraffic (h : PortLockOk s) : PortLockOk s.restartTraffic := by
  have hstopped := PortLockOk.common.stopAll h
  unfold State.restartTraffic
  generalize s.stopAll = v at hstopped
  refine hstopped.of_same (fun q => ?_) ⟨rfl, rfl⟩
  unfold State.port
  simp only [PerPort.get_map]
  exact ⟨rfl, rfl⟩

/-- A reset commands every port ACTIVE and leaves the lock UNLOCKED (R113, R136, R200). -/
theorem startReset_portLockOk (s : State) (count : Nat) : PortLockOk (s.startReset count) := by
  have hport : ∀ q, ((s.startReset count).port q).state = .active ∧ ((s.startReset count).port q).commanded = .active := by
    intro q
    unfold State.port State.startReset
    simp only [PerPort.get_map]
    exact ⟨rfl, rfl⟩
  exact ⟨⟨fun q => .inl (by rw [(hport q).1, (hport q).2]; rfl), by rw [(hport .t).1]; exact nofun⟩,
    ⟨rfl, fun hl => by cases hl⟩, rfl⟩

theorem PortLockOk.of_map {f : PortUnit → PortUnit} (h : PortLockOk s) (hports : t.ports = s.ports.map f)
    (hf : ∀ v, (f v).state = v.state ∧ (f v).commanded = v.commanded) (hlock : SameLock s t) : PortLockOk t := by
  refine h.of_same (fun q => ?_) hlock
  unfold State.port
  rw [hports, PerPort.get_map]
  exact hf _

theorem PortLockOk.beginStarting (h : PortLockOk s) : PortLockOk s.beginStarting :=
  h.of_map (f := fun v => { v with errorWindow := Config.windowMs }) rfl (fun _ => ⟨rfl, rfl⟩) ⟨rfl, rfl⟩

theorem PortLockOk.command {r : Request} (h : PortLockOk s) (he : CommandEffect r s t) : PortLockOk t := by
  cases he
  case setPort p payload mode _ =>
    have hset : PortLockOk (s.setPort p ((s.port p).withSettings payload)) := h.of_same (.setPort rfl rfl) (.refl _)
    exact hset.applyMode mode
  case clearCounters => exact h.of_same (.setPort rfl rfl) (.refl _)
  case setSync timeout _ =>
    refine ⟨h.1, h.2.1, ?_⟩
    have htimer := h.2.2
    unfold SyncTimerOk TrunkSync.setTimeout at *
    simp only
    split
    · rw [Option.isSome_map]
      exact htimer
    · exact htimer
  case ack => exact PortLockOk.common.settleReady h
  case setNotice => exact PortLockOk.common.settleReady h
  case traffic => exact h.restartTraffic
  all_goals exact h

theorem PortLockOk.event (h : PortLockOk s) (he : EventEffect s t) : PortLockOk t := by
  cases he
  case request r f a _ ha => exact PortLockOk.common.completeRequest (h.command ha)
  case restartFull r f a _ ha => exact PortLockOk.common.completeRequest (by rw [ha]; exact h)
  case resetLow => exact PortLockOk.common.device _ _ (startReset_portLockOk s 0)
  case release =>
    exact h.beginStarting.of_map (f := fun v => { v with egress := { v.egress with line := .idleFill } }) rfl
      (fun _ => ⟨rfl, rfl⟩) ⟨rfl, rfl⟩
  case restartPoint => exact (startReset_portLockOk s _).beginStarting
  case startMark p _ hp => exact h.receiveEnding hp
  case endOfFrame p data ending _ hp =>
    refine PortLockOk.receiveEnding (h.of_same (.setPort rfl rfl) (.refl _)) ?_
    unfold State.inService State.setReceiver
    rw [State.port_setPort_self]
    exact hp
  case classified p n rest x _ _ _ => exact PortLockOk.common.release _ _ ((PortLockOk.classifier n).classify h)
  case transmitted => exact PortLockOk.common.finishTransmission h
  case syncExpired => exact h.loseSync 0
  case unblocked p _ hb =>
    refine h.setPort (.inl rfl) (fun _ => toState_ne_blocked _) (fun hp _ => ?_)
    subst hp
    exact absurd hb h.1.2
  case errorWindow => exact h.of_same (.setPort rfl rfl) (.refl _)
  case served => exact PortLockOk.common.takeService h
  case millisecond hlow =>
    unfold State.millisecond
    rw [if_neg (by simp [hlow])]
    refine PortLockOk.of_map (s := { s with sync := { s.sync with timer := countDown s.sync.timer } })
      (f := PortUnit.countDown) ?_ rfl (fun _ => ⟨rfl, rfl⟩) ⟨rfl, rfl⟩
    refine ⟨h.1, h.2.1, ?_⟩
    have htimer := h.2.2
    unfold SyncTimerOk countDown at *
    rw [Option.isSome_map]
    exact htimer
  all_goals exact h

/-- Settles O56, over every event's effect. -/
theorem stepKeepsPortStatesAndLock : Obligations.StepKeepsPortStatesAndLock := by
  unfold Obligations.StepKeepsPortStatesAndLock
  intro s t hports hgate htimer hstep
  obtain ⟨rest, heffect⟩ := step_effect hstep
  exact PortLockOk.event (s := { s with pending := rest }) ⟨hports, hgate, htimer⟩ heffect

end Sys2Proof.Safety
end

section
/-! SUPPORT. Selection at one egress (R99 to R104): the classes, the round, the head that a selection takes, and what is left
of the egress when the head has left. -/

namespace Sys2Proof.Machine

open Sys2Proof.Safety

/-- The four classes. -/
theorem cls_cases (c : BitVec 2) : c = 3 ∨ c = 2 ∨ c = 1 ∨ c = 0 := by
  revert c
  decide

/-! ## Rounds -/

theorem highest_none {r : Round} (h : r.highest = none) : r = .closed := by
  obtain ⟨a, b, c⟩ := r
  unfold Round.highest at h
  simp only at h
  split at h
  · cases h
  next h2 =>
  split at h
  · cases h
  next h1 =>
  split at h
  · cases h
  next h0 =>
  rw [Classical.not_not.mp h2, Classical.not_not.mp h1, Classical.not_not.mp h0]
  rfl

/-- The highest member of a round is a member, and no member is above it (R102). -/
theorem highest_iff {r : Round} {c : BitVec 2} :
    r.highest = some c ↔ c ≠ 3 ∧ r.left c ≠ 0 ∧ ∀ d : BitVec 2, c.toNat < d.toNat → d ≠ 3 → r.left d = 0 := by
  have hcls : (∀ d : BitVec 2, c.toNat < d.toNat → d ≠ 3 → r.left d = 0) ↔
      (c.toNat < 2 → r.left2 = 0) ∧ (c.toNat < 1 → r.left1 = 0) := by
    constructor
    · intro h
      exact ⟨fun hc => h 2 hc (by decide), fun hc => h 1 hc (by decide)⟩
    · rintro ⟨h2, h1⟩ d hd hd3
      rcases cls_cases d with rfl | rfl | rfl | rfl
      · exact absurd rfl hd3
      · exact h2 hd
      · exact h1 hd
      · exact absurd hd (Nat.not_lt_zero _)
  rw [hcls]
  unfold Round.highest
  rcases cls_cases c with rfl | rfl | rfl | rfl <;> simp [Round.left] <;> grind

/-- The members of a new round are the classes that wait (R101). -/
theorem openRound_left (e : Egress) {c : BitVec 2} (hc : c ≠ 3) :
    e.openRound.left c = if (e.queue c).isEmpty then 0 else e.share c := by
  rcases cls_cases c with rfl | rfl | rfl | rfl
  · exact absurd rfl hc
  all_goals rfl

theorem servedRound_open {e : Egress} (h : e.round ≠ .closed) : e.servedRound = e.round := if_neg h

theorem servedRound_closed {e : Egress} (h : e.round = .closed) : e.servedRound = e.openRound := if_pos h

/-! ## The head -/

theorem head_three {e : Egress} {n : Nat} {rest : List Nat} (h : e.q3 = n :: rest) : e.head = some (3, n, e) := by
  unfold Egress.head
  rw [h]

/-- With class queue 3 empty the highest member's head is taken, in the egress with the served round opened. -/
theorem head_member {e : Egress} {c : BitVec 2} {n : Nat} {rest : List Nat} (h3 : e.q3 = [])
    (hc : e.servedRound.highest = some c) (hq : e.queue c = n :: rest) :
    e.head = some (c, n, { e with round := e.servedRound }) := by
  have hq' : Egress.queue { e with round := e.servedRound } c = n :: rest := hq
  unfold Egress.head
  split
  · next hq3 => rw [h3] at hq3; cases hq3
  · simp only [hc, hq']

/-- A selection finds no head when class queue 3 is empty and no member of the served round waits. -/
theorem head_none {e : Egress} (h : e.head = none) :
    e.q3 = [] ∧ ∀ c, e.servedRound.highest = some c → e.queue c = [] := by
  cases h3 : e.q3 with
  | cons n rest => rw [head_three h3] at h; cases h
  | nil =>
    refine ⟨rfl, fun c hc => ?_⟩
    cases hq : e.queue c with
    | nil => rfl
    | cons n rest => rw [head_member h3 hc hq] at h; cases h

theorem head_eq_none {e : Egress} (h3 : e.q3 = []) (hc : e.servedRound.highest = none) : e.head = none := by
  unfold Egress.head
  rw [h3]
  simp only [hc]

/-! ## The head leaves -/

theorem setQueue_three (e : Egress) (q : List Nat) : e.setQueue 3 q = { e with q3 := q } := rfl
theorem setQueue_two (e : Egress) (q : List Nat) : e.setQueue 2 q = { e with q2 := q } := rfl
theorem setQueue_one (e : Egress) (q : List Nat) : e.setQueue 1 q = { e with q1 := q } := rfl
theorem setQueue_zero (e : Egress) (q : List Nat) : e.setQueue 0 q = { e with q0 := q } := rfl

theorem takeHead_three (e : Egress) (sent : Bool) : e.takeHead 3 sent = { e with q3 := e.q3.drop 1 } := rfl

/-- The head of a member leaves: its share is one less when the head is sent, and 0 when its queue ends. -/
theorem takeHead_member (e : Egress) {c : BitVec 2} (hc : c ≠ 3) (sent : Bool) :
    e.takeHead c sent =
      { e.setQueue c ((e.queue c).drop 1) with
        round := e.round.setLeft c
          (if ((e.queue c).drop 1).isEmpty then 0 else if sent then e.round.left c - 1 else e.round.left c) } := by
  unfold Egress.takeHead
  rw [if_neg hc]

theorem setQueue_frame (e : Egress) (c : BitVec 2) (q : List Nat) :
    (e.setQueue c q).transmitter = e.transmitter ∧ (e.setQueue c q).round = e.round ∧ (e.setQueue c q).line = e.line := by
  rcases cls_cases c with rfl | rfl | rfl | rfl <;> exact ⟨rfl, rfl, rfl⟩

theorem takeHead_transmitter (e : Egress) (c : BitVec 2) (sent : Bool) :
    (e.takeHead c sent).transmitter = e.transmitter := by
  unfold Egress.takeHead
  simp only
  split <;> exact (setQueue_frame e c _).1

/-- One entry fewer is queued when a head has left. -/
theorem queued_takeHead {e : Egress} {c : BitVec 2} {n : Nat} {rest : List Nat} (hq : e.queue c = n :: rest)
    (sent : Bool) : (e.takeHead c sent).queued + 1 = e.queued := by
  rcases cls_cases c with rfl | rfl | rfl | rfl
  · have : e.q3 = n :: rest := hq
    simp only [Egress.queued, takeHead_three, this, List.drop_one, List.tail_cons, List.length_cons]
    omega
  · have : e.q2 = n :: rest := hq
    simp only [Egress.queued, takeHead_member e (show (2 : BitVec 2) ≠ 3 by decide), hq, setQueue_two, this, List.drop_one,
      List.tail_cons, List.length_cons]
    omega
  · have : e.q1 = n :: rest := hq
    simp only [Egress.queued, takeHead_member e (show (1 : BitVec 2) ≠ 3 by decide), hq, setQueue_one, this, List.drop_one,
      List.tail_cons, List.length_cons]
    omega
  · have : e.q0 = n :: rest := hq
    simp only [Egress.queued, takeHead_member e (show (0 : BitVec 2) ≠ 3 by decide), hq, setQueue_zero, this, List.drop_one,
      List.tail_cons, List.length_cons]
    omega

/-- What a selection takes is the head of its queue, in an egress that queues what the selection found. -/
theorem head_queue {e e' : Egress} {c : BitVec 2} {n : Nat} (h : e.head = some (c, n, e')) :
    (∃ rest, e'.queue c = n :: rest) ∧ e'.queued = e.queued ∧ e'.transmitter = e.transmitter := by
  rcases Egress.head_cases h with ⟨rest, hq, rfl, rfl⟩ | ⟨hq, rfl, hc, rest, hm⟩
  · exact ⟨⟨rest, hq⟩, rfl, rfl⟩
  · exact ⟨⟨rest, hm⟩, rfl, rfl⟩

end Sys2Proof.Machine
end

section
/-! SUPPORT. The egresses between events (R97, R99, R101 to R103, R109, R122): queues within 32 entries, round members with
entries, an IDLE transmitter with empty queues, and a port out of service with nothing at all. -/

namespace Sys2Proof.Safety

open Sys2Proof.Machine

variable {s t : State} {p q : Port}

/-! ## One egress -/

/-- The queues within their depth, and the round and the shares in form. -/
def EgressFits (e : Egress) : Prop := (∀ c, (e.queue c).length ≤ Config.queueDepth) ∧ EgressOk e

/-- Nothing is queued and nothing is sent. -/
def EgressEmpty (e : Egress) : Prop := e.transmitter = none ∧ e.queued = 0

theorem egressOk_iff {e : Egress} : EgressOk e ↔
    (∀ c, c ≠ 3 → e.round.left c ≠ 0 → e.queue c ≠ []) ∧ ∀ c, c ≠ 3 → 1 ≤ e.share c := by
  constructor
  · rintro ⟨h2, h1, h0, s2, s1, s0⟩
    refine ⟨fun c hc => ?_, fun c hc => ?_⟩ <;> rcases cls_cases c with rfl | rfl | rfl | rfl
    · exact absurd rfl hc
    · exact h2
    · exact h1
    · exact h0
    · exact absurd rfl hc
    · exact s2
    · exact s1
    · exact s0
  · rintro ⟨hround, hshare⟩
    exact ⟨hround 2 (by decide), hround 1 (by decide), hround 0 (by decide), hshare 2 (by decide), hshare 1 (by decide),
      hshare 0 (by decide)⟩

theorem queued_eq_zero_iff {e : Egress} : e.queued = 0 ↔ ∀ c, e.queue c = [] := by
  unfold Egress.queued
  constructor
  · intro h c
    rcases cls_cases c with rfl | rfl | rfl | rfl
    · exact List.length_eq_zero_iff.mp (show e.q3.length = 0 by omega)
    · exact List.length_eq_zero_iff.mp (show e.q2.length = 0 by omega)
    · exact List.length_eq_zero_iff.mp (show e.q1.length = 0 by omega)
    · exact List.length_eq_zero_iff.mp (show e.q0.length = 0 by omega)
  · intro h
    have h3 : e.q3 = [] := h 3
    have h2 : e.q2 = [] := h 2
    have h1 : e.q1 = [] := h 1
    have h0 : e.q0 = [] := h 0
    rw [h3, h2, h1, h0]
    rfl

theorem queue_setQueue_other (e : Egress) {c d : BitVec 2} (h : d ≠ c) (l : List Nat) :
    (e.setQueue c l).queue d = e.queue d := by
  rcases cls_cases c with rfl | rfl | rfl | rfl <;> rcases cls_cases d with rfl | rfl | rfl | rfl
  all_goals first | exact absurd rfl h | rfl

theorem share_setQueue (e : Egress) (c d : BitVec 2) (l : List Nat) : (e.setQueue c l).share d = e.share d := by
  rcases cls_cases c with rfl | rfl | rfl | rfl <;> rfl

theorem left_setLeft_self (r : Round) {c : BitVec 2} (hc : c ≠ 3) (k : Nat) : (r.setLeft c k).left c = k := by
  rcases cls_cases c with rfl | rfl | rfl | rfl
  · exact absurd rfl hc
  all_goals rfl

theorem left_setLeft_other (r : Round) {c d : BitVec 2} (hc : c ≠ 3) (hd : d ≠ 3) (h : d ≠ c) (k : Nat) :
    (r.setLeft c k).left d = r.left d := by
  rcases cls_cases c with rfl | rfl | rfl | rfl <;> rcases cls_cases d with rfl | rfl | rfl | rfl
  all_goals first | exact absurd rfl h | exact absurd rfl hc | exact absurd rfl hd | rfl

/-- What `EgressFits` says of an egress whose queues and round are those of another but for class `c`. -/
theorem EgressFits.setQueue {e : Egress} {c : BitVec 2} {l : List Nat} (h : EgressFits e)
    (hl : l.length ≤ Config.queueDepth) (hround : c ≠ 3 → e.round.left c ≠ 0 → l ≠ []) : EgressFits (e.setQueue c l) := by
  obtain ⟨hdepth, hok⟩ := h
  obtain ⟨hmembers, hshares⟩ := egressOk_iff.mp hok
  refine ⟨fun d => ?_, egressOk_iff.mpr ⟨fun d hd => ?_, fun d hd => by rw [share_setQueue]; exact hshares d hd⟩⟩
  · by_cases hdc : d = c
    · subst hdc
      rw [Egress.queue_setQueue_self]
      exact hl
    · rw [queue_setQueue_other e hdc]
      exact hdepth d
  · rw [(setQueue_frame e c l).2.1]
    by_cases hdc : d = c
    · subst hdc
      rw [Egress.queue_setQueue_self]
      exact hround hd
    · rw [queue_setQueue_other e hdc]
      exact hmembers d hd

/-- An entry more in a queue with room. -/
theorem EgressFits.append {e : Egress} {c : BitVec 2} {n : Nat} (h : EgressFits e)
    (hroom : (e.queue c).length < Config.queueDepth) : EgressFits (e.setQueue c (e.queue c ++ [n])) :=
  h.setQueue (by rw [List.length_append]; exact hroom) (fun _ _ hnil => by simp at hnil)

/-- The round of a selection has members with entries. -/
theorem EgressFits.served {e : Egress} (h : EgressFits e) : EgressFits { e with round := e.servedRound } := by
  by_cases hclosed : e.round = .closed
  · refine ⟨h.1, egressOk_iff.mpr ⟨fun c hc hleft => ?_, (egressOk_iff.mp h.2).2⟩⟩
    have hopened : e.openRound.left c ≠ 0 := by
      rw [← servedRound_closed hclosed]
      exact hleft
    rw [openRound_left e hc] at hopened
    show e.queue c ≠ []
    intro hnil
    rw [hnil] at hopened
    exact hopened rfl
  · rw [servedRound_open hclosed]
    exact h

theorem EgressFits.takeHead {e : Egress} (h : EgressFits e) (c : BitVec 2) (sent : Bool) : EgressFits (e.takeHead c sent) := by
  have hrest : ((e.queue c).drop 1).length ≤ Config.queueDepth :=
    Nat.le_trans (by rw [List.length_drop]; exact Nat.sub_le _ _) (h.1 c)
  by_cases hc : c = 3
  · subst hc
    exact h.setQueue hrest (fun hne => absurd rfl hne)
  · rw [takeHead_member e hc]
    obtain ⟨hdepth, hok⟩ := h
    obtain ⟨hmembers, hshares⟩ := egressOk_iff.mp hok
    refine ⟨fun d => ?_, egressOk_iff.mpr ⟨fun d hd hleft => ?_, fun d hd => ?_⟩⟩
    · show ((e.setQueue c _).queue d).length ≤ _
      by_cases hdc : d = c
      · subst hdc
        rw [Egress.queue_setQueue_self]
        exact hrest
      · rw [queue_setQueue_other e hdc]
        exact hdepth d
    · show (e.setQueue c _).queue d ≠ []
      by_cases hdc : d = c
      · subst hdc
        rw [Egress.queue_setQueue_self]
        intro hnil
        simp only [left_setLeft_self _ hd, hnil] at hleft
        exact hleft rfl
      · rw [queue_setQueue_other e hdc]
        simp only [left_setLeft_other _ hc hd hdc] at hleft
        exact hmembers d hd hleft
    · show 1 ≤ (e.setQueue c _).share d
      rw [share_setQueue]
      exact hshares d hd

/-- A selection of an egress in form finds no head only when nothing is queued. -/
theorem EgressFits.queued_of_head_none {e : Egress} (h : EgressFits e) (hhead : e.head = none) : e.queued = 0 := by
  obtain ⟨h3, hmember⟩ := head_none hhead
  obtain ⟨hmembers, -⟩ := egressOk_iff.mp h.served.2
  obtain ⟨-, hshares⟩ := egressOk_iff.mp h.2
  cases hhighest : e.servedRound.highest with
  | some c =>
    obtain ⟨hc, hleft, -⟩ := highest_iff.mp hhighest
    exact absurd (hmember c hhighest) (hmembers c hc hleft)
  | none =>
    have hserved := highest_none hhighest
    have hclosed : e.round = .closed := by
      by_cases ho : e.round = .closed
      · exact ho
      · rw [servedRound_open ho] at hserved
        exact absurd hserved ho
    rw [servedRound_closed hclosed] at hserved
    refine queued_eq_zero_iff.mpr (fun c => ?_)
    by_cases hc : c = 3
    · rw [hc]
      exact h3
    · have hzero : e.openRound.left c = 0 := by
        rw [hserved]
        rcases cls_cases c with rfl | rfl | rfl | rfl <;> rfl
      rw [openRound_left e hc] at hzero
      have := hshares c hc
      split at hzero
      · next hempty => exact List.isEmpty_iff.mp hempty
      · omega

theorem EgressFits.head {e e' : Egress} {c : BitVec 2} {n : Nat} (h : EgressFits e) (hh : e.head = some (c, n, e')) :
    EgressFits e' := by
  rcases Egress.head_cases hh with ⟨rest, hq, rfl, rfl⟩ | ⟨hq, rfl, hc, rest, hm⟩
  · exact h
  · exact h.served

/-! ## One port unit -/

/-- A port unit that is ACTIVE or LISTEN. -/
def unitInService (v : PortUnit) : Bool := decide (v.state = .active) || decide (v.state = .listen)

theorem inService_eq_unit (s : State) (p : Port) : s.inService p = unitInService (s.port p) := rfl

/-- What holds of a port unit at every turn of an event. -/
structure UnitFits (v : PortUnit) : Prop where
  egress : EgressFits v.egress
  outOfService : unitInService v = false → v.receiver = .idle ∧ EgressEmpty v.egress

/-- What holds of a port unit between events. -/
structure UnitSettled (v : PortUnit) : Prop extends UnitFits v where
  idle : v.egress.transmitter = none → v.egress.queued = 0

theorem UnitSettled.of_empty {v : PortUnit} (h : EgressFits v.egress) (he : EgressEmpty v.egress)
    (hr : unitInService v = false → v.receiver = .idle) : UnitSettled v :=
  ⟨⟨h, fun hv => ⟨hr hv, he⟩⟩, fun _ => he.2⟩

/-- A unit that differs in its egress alone, and is in service. -/
theorem UnitFits.of_sameUnit {v w : PortUnit} (hsame : SameUnit v w) (hv : unitInService v = true) (h : EgressFits w.egress) :
    UnitFits w := by
  refine ⟨h, fun hw => ?_⟩
  have : unitInService w = unitInService v := by unfold unitInService; rw [hsame]
  rw [this, hv] at hw
  cases hw

/-- The state of a unit, its receiver and its egress are all that counts. -/
theorem UnitSettled.of_eq {v w : PortUnit} (h : UnitSettled v) (hs : w.state = v.state) (hr : w.receiver = v.receiver)
    (he : w.egress = v.egress) : UnitSettled w := by
  refine ⟨⟨by rw [he]; exact h.egress, fun hw => ?_⟩, by rw [he]; exact h.idle⟩
  rw [hr, he]
  exact h.outOfService (by unfold unitInService at *; rw [← hs]; exact hw)

theorem UnitFits.of_eq {v w : PortUnit} (h : UnitFits v) (hs : w.state = v.state) (hr : w.receiver = v.receiver)
    (he : w.egress = v.egress) : UnitFits w := by
  refine ⟨by rw [he]; exact h.egress, fun hw => ?_⟩
  rw [hr, he]
  exact h.outOfService (by unfold unitInService at *; rw [← hs]; exact hw)

/-! ## The part -/

/-- Every unit fits, and every one but those of `open_` is settled. -/
def EgressesFit (open_ : Port → Prop) (s : State) : Prop :=
  ∀ q, UnitFits (s.port q) ∧ (¬ open_ q → UnitSettled (s.port q))

/-- Between events every unit is settled. -/
def EgressesOk (s : State) : Prop := ∀ q, UnitSettled (s.port q)

theorem egressesOk_iff : EgressesOk s ↔ QueuesOk s ∧ IdleIsEmpty s ∧ OutOfServiceOk s := by
  constructor
  · intro h
    exact ⟨fun p => ⟨(h p).egress.1 3, (h p).egress.1 2, (h p).egress.1 1, (h p).egress.1 0⟩,
      fun p => ⟨(h p).egress.2, (h p).idle⟩, fun p hp => (h p).outOfService hp⟩
  · rintro ⟨hdepth, hidle, hout⟩ p
    obtain ⟨h3, h2, h1, h0⟩ := hdepth p
    refine ⟨⟨⟨fun c => ?_, (hidle p).1⟩, hout p⟩, (hidle p).2⟩
    rcases cls_cases c with rfl | rfl | rfl | rfl
    · exact h3
    · exact h2
    · exact h1
    · exact h0

theorem EgressesOk.fit (h : EgressesOk s) (open_ : Port → Prop) : EgressesFit open_ s :=
  fun q => ⟨(h q).toUnitFits, fun _ => h q⟩

theorem EgressesFit.settle (h : EgressesFit (fun q => q = p) s) (hp : UnitSettled (s.port p)) : EgressesOk s := by
  intro q
  by_cases hq : q = p
  · subst hq
    exact hp
  · exact (h q).2 hq

theorem EgressesFit.of_ports {open_ : Port → Prop} (h : EgressesFit open_ s) (e : t.ports = s.ports) : EgressesFit open_ t := by
  unfold EgressesFit State.port
  rw [e]
  exact h

theorem EgressesOk.of_ports (h : EgressesOk s) (e : t.ports = s.ports) : EgressesOk t := by
  unfold EgressesOk State.port
  rw [e]
  exact h

/-! ## Selection and placement -/

theorem startTransmission_egress (s : State) (p : Port) (c : BitVec 2) (n : Nat) (e : Egress) :
    ((s.startTransmission p c n e).port p).egress =
      { e.takeHead c true with transmitter := some n, line := .startMark } := by
  unfold State.startTransmission
  rw [State.port_setEgress_self]

/-- A selection leaves the egress in form, and SENDING unless nothing is queued. The fuel is above the number of entries,
and each turn but the last takes one. -/
theorem selectLoop_settles (fuel : Nat) (s : State) (p : Port) (hfuel : (s.port p).egress.queued < fuel)
    (h : EgressFits (s.port p).egress) :
    EgressFits ((s.selectLoop fuel p).port p).egress ∧
      (((s.selectLoop fuel p).port p).egress.transmitter = none →
        ((s.selectLoop fuel p).port p).egress.queued = 0) := by
  induction fuel generalizing s with
  | zero => cases hfuel
  | succ fuel ih =>
    unfold State.selectLoop
    split
    · next hnone => exact ⟨h, fun _ => h.queued_of_head_none hnone⟩
    · next c n e hhead =>
      obtain ⟨⟨rest, hrest⟩, hqueued, -⟩ := head_queue hhead
      have he := h.head hhead
      split
      · refine ih _ ?_ ?_ <;> rw [discardStale_egress]
        · have := queued_takeHead hrest false
          omega
        · exact he.takeHead c false
      · rw [startTransmission_egress]
        exact ⟨he.takeHead c true, fun hnone => nomatch hnone⟩

theorem select_settles (h : UnitFits (s.port p)) : UnitSettled ((s.select p).port p) := by
  have hsame := (select_only s p).unit
  have hservice : unitInService ((s.select p).port p) = unitInService (s.port p) := by unfold unitInService; rw [hsame]
  unfold State.select at *
  split
  · next hc =>
    rw [if_pos hc] at hsame hservice
    obtain ⟨hfits, hidle⟩ := selectLoop_settles _ s p (Nat.lt_succ_self _) h.egress
    refine ⟨⟨hfits, fun hout => ?_⟩, hidle⟩
    rw [hservice, ← inService_eq_unit, hc.1] at hout
    cases hout
  · next hc =>
    refine ⟨h, fun hnone => ?_⟩
    refine (h.outOfService ?_).2.2
    rw [← inService_eq_unit]
    exact Bool.eq_false_iff.mpr (fun hin => hc ⟨hin, hnone⟩)

theorem EgressesFit.select {open_ : Port → Prop} (h : EgressesFit open_ s) (p : Port) : EgressesFit open_ (s.select p) := by
  intro q
  by_cases hq : q = p
  · subst hq
    have hsettled := select_settles (h q).1
    exact ⟨hsettled.toUnitFits, fun _ => hsettled⟩
  · rw [(select_only s p).others q hq]
    exact h q

theorem addRef_ports (s : State) (n : Nat) : (s.addRef n).ports = s.ports := by
  unfold State.addRef
  split <;> rfl

theorem EgressesFit.enqueue {open_ : Port → Prop} {c : BitVec 2} {n : Nat} (h : EgressesFit open_ s)
    (hp : s.inService p = true) (hroom : s.queueFull p c = false) : EgressesFit open_ (s.enqueue p c n) := by
  have hroom : ((s.port p).egress.queue c).length < Config.queueDepth := by
    unfold State.queueFull at hroom
    simpa using hroom
  unfold State.enqueue
  simp only
  intro q
  by_cases hq : q = p
  · subst hq
    have hfits : UnitFits (((s.setEgress q ((s.port q).egress.setQueue c ((s.port q).egress.queue c ++ [n]))).addRef n).port q) := by
      rw [addRef_port, State.port_setEgress_self]
      exact .of_sameUnit (v := s.port q) rfl hp ((h q).1.egress.append hroom)
    have hsettled := select_settles hfits
    exact ⟨hsettled.toUnitFits, fun _ => hsettled⟩
  · rw [(select_only _ p).others q hq, addRef_port, s.port_setEgress_other hq]
    exact h q

theorem EgressesFit.count {open_ : Port → Prop} (h : EgressesFit open_ s) (p : Port) (c : Counter) :
    EgressesFit open_ (s.count p c) := by
  intro q
  by_cases hq : q = p
  · subst hq
    rw [State.port_count_self]
    exact ⟨(h q).1.of_eq rfl rfl rfl, fun hne => ((h q).2 hne).of_eq rfl rfl rfl⟩
  · rw [s.port_count_other hq]
    exact h q

theorem EgressesFit.place {open_ : Port → Prop} {c : BitVec 2} {n : Nat} (h : EgressesFit open_ s)
    (hp : s.inService p = true) : EgressesFit open_ (s.place p c n) := by
  unfold State.place
  split
  · exact h.count p .txQFull
  · next hroom => exact h.enqueue hp (by simpa using hroom)

theorem EgressesFit.placeOwn {open_ : Port → Prop} (h : EgressesFit open_ s) (p : Port) (f : Frame) :
    EgressesFit open_ (s.placeOwn p f).2 := by
  rcases placeOwn_cases s p f with ⟨_, ho⟩ | ⟨n, hn, hi, ho⟩ | ⟨n, hn, hi, hq, ho⟩ | ⟨n, hn, hi, hq, ho⟩ <;> rw [ho]
  · exact h
  · exact h
  · exact h.count p .txQFull
  · have hfilled : EgressesFit open_ (s.fillSlot n f .agent 0) := h
    exact hfilled.enqueue hi hq

/-! ## The Notice Unit and the executions -/

/-- What a service event does is to change the Notice Unit and to offer frames of the part's own (R187). -/
theorem serve_keeps {P : State → Prop} (hown : ∀ s p f, P s → P (s.placeOwn p f).2)
    (hnotices : ∀ s a, P s → P { s with notices := a }) (l : List Source) (h : P s) : P (s.serve l) := by
  have hsent : ∀ (s u : State) (r : Source), P s → sendOf s r = some u → P u := by
    intro s u r hs hu
    unfold sendOf at hu
    split at hu
    · split at hu
      · cases hu
        exact hown _ _ _ (hnotices _ _ hs)
      · cases hu
    · split at hu
      · cases hu
        exact hown _ _ _ (hnotices _ _ (hnotices _ _ hs))
      · cases hu
  induction l generalizing s with
  | nil => exact hnotices _ _ h
  | cons r rest ih =>
    unfold State.serve
    split
    · exact ih h
    · next u hu =>
      split
      · unfold State.deferService
        split
        · exact h
        · exact hnotices _ _ h
      · exact ih (hsent _ _ _ h hu)

theorem takeService_keeps {P : State → Prop} (hown : ∀ s p f, P s → P (s.placeOwn p f).2)
    (hnotices : ∀ s a, P s → P { s with notices := a }) (h : P s) : P s.takeService := by
  rcases takeService_cases s with e | e | e <;> rw [e]
  · exact h
  · exact hnotices _ _ h
  · exact serve_keeps hown hnotices _ (hnotices _ _ h)

theorem releaseRef_ports (s : State) (n : Nat) : (s.releaseRef n).ports = s.ports := by
  rcases releaseRef_cases s n with ⟨_, e⟩ | ⟨x, _, _, e⟩ | ⟨x, _, _, e⟩
  · rw [e]
  · exact (congrArg State.ports e).trans rfl
  · exact (congrArg State.ports e).trans rfl

theorem reportEnd_ports (s : State) (n : Nat) : (s.reportEnd n).ports = s.ports := by
  rcases reportEnd_cases s n with ⟨_, e⟩ | ⟨_, e⟩ <;> rw [e]

/-- The ports after an execution are those that the placement of its reply left. -/
theorem completeRequest_ports (r : Request) (f : Frame) (restart : Bool) (a : Answer) :
    (completeRequest r f restart a).ports =
      ((restartClaimTimer r.source a.state).placeOwn r.port (buildReply r f a)).2.ports := by
  have hmark : ∀ (pl : Placed) (u : State), (if restart then markRestartReply pl u else u).ports = u.ports := by
    intro pl u
    split
    · cases pl <;> rfl
    · rfl
  rw [completeRequest_eq]
  unfold endExecution offeredReply
  rw [takeRequest_only]
  show (State.releaseRef _ r.slot).ports = _
  rw [releaseRef_ports]
  show (if restart then _ else _ : State).ports = _
  rw [hmark, countReplyLost_eq]

theorem EgressesOk.completeRequest {r : Request} {f : Frame} {restart : Bool} {a : Answer} (h : EgressesOk a.state) :
    EgressesOk (completeRequest r f restart a) := by
  have hclaim : EgressesOk (restartClaimTimer r.source a.state) := h.of_ports (by rw [restartClaimTimer_eq])
  intro q
  have hplaced := ((hclaim.fit (fun _ => False)).placeOwn r.port (buildReply r f a) q).2 id
  unfold State.port at *
  rw [completeRequest_ports]
  exact hplaced

/-! ## Classification -/

theorem learn_ports (s : State) (a : Word) (p : Port) : (s.learn a p).2.ports = s.ports := by rw [learn_only]

theorem EgressesOk.classifier (n : Nat) : KeptByClassifier n EgressesOk where
  place := fun s q c hq h x => ((h.fit (fun _ => False)).place hq x).2 id
  own := fun s p f h x => ((h.fit (fun _ => False)).placeOwn p f x).2 id
  count := fun s p c h x => ((h.fit (fun _ => False)).count p c x).2 id
  agent := fun _ _ _ _ _ _ h => h
  capture := fun s _ _ _ _ _ _ h => h.of_ports (by
    unfold State.capture
    rw [takeRequest_only]
    exact addRef_ports _ _)
  rewrite := fun s f h => by
    rcases rewriteSlot_cases s n f with ⟨_, e⟩ | ⟨x, _, e⟩ <;> rw [e] <;> exact h
  raise := fun _ _ _ h => h
  trunkSync := fun s _ h => h.of_ports (by rw [(trunkSync_only s).1])
  learn := fun s a p h => h.of_ports (learn_ports s a p)
  countHit := fun s d h => h.of_ports (by rw [countHit_only])
  consult := fun s k c h => h.of_ports (consult_ports s k c)

/-! ## Leaving service and changing mode -/

theorem stoppedEgress_empty (e : Egress) : EgressEmpty (stoppedEgress e) := ⟨rfl, rfl⟩

theorem EgressFits.stopped {e : Egress} (h : EgressFits e) : EgressFits (stoppedEgress e) := by
  obtain ⟨-, -, -, -, h2, h1, h0⟩ := h
  refine ⟨fun c => ?_, ⟨nofun, nofun, nofun, h2, h1, h0⟩⟩
  rcases cls_cases c with rfl | rfl | rfl | rfl <;> exact Nat.zero_le _

/-- A port that leaves service leaves its unit settled, and every other as it was. -/
theorem EgressesOk.leaveService {v : PortUnit} (h : EgressesOk s) (hv : EgressFits v.egress) (new : PortState) :
    EgressesOk ((s.setPort p v).leaveService p new) := by
  obtain ⟨hport, hothers⟩ := leaveService_ports (s.setPort p v) p new
  intro q
  by_cases hq : q = p
  · subst hq
    rw [hport]
    have hegress : ((s.setPort q v).stopEgress q |>.port q).egress = stoppedEgress v.egress := by
      rw [stopEgress_egress, State.port_setPort_self]
      rfl
    refine .of_empty ?_ ?_ (fun _ => rfl) <;> simp only [hegress]
    · exact hv.stopped
    · exact stoppedEgress_empty _
  · rw [hothers q hq, s.port_setPort_other hq]
    exact h q

theorem EgressesOk.setPort {v : PortUnit} (h : EgressesOk s) (hv : UnitSettled v) : EgressesOk (s.setPort p v) := by
  intro q
  by_cases hq : q = p
  · subst hq
    rw [State.port_setPort_self]
    exact hv
  · rw [s.port_setPort_other hq]
    exact h q

theorem EgressesOk.trunkLeavesActive (h : EgressesOk s) : EgressesOk s.trunkLeavesActive :=
  h.of_ports (trunkLeavesActive_ports s)

/-- A port out of service whose unit is written, but for its egress and its receiver. -/
theorem UnitSettled.of_outOfService {v w : PortUnit} (h : UnitSettled v) (hv : unitInService v = false)
    (hr : unitInService w = false → w.receiver = .idle) (he : w.egress = v.egress) : UnitSettled w :=
  .of_empty (by rw [he]; exact h.egress) (by rw [he]; exact (h.outOfService hv).2) hr

theorem EgressesOk.applyMode (h : EgressesOk s) (mode : Mode) : EgressesOk (s.applyMode p mode) := by
  unfold State.applyMode
  simp only
  split
  · exact h.setPort ((h p).of_eq rfl rfl rfl)
  split
  · split
    · next hblocked =>
      have hout : unitInService (s.port p) = false := by unfold unitInService; rw [hblocked]; rfl
      exact h.setPort ((h p).of_outOfService hout (fun _ => ((h p).outOfService hout).1) rfl)
    · exact h.leaveService (p := p) (v := { s.port p with commanded := mode }) (h p).egress .disabled
  next hmode =>
  have hservice : unitInService { s.port p with state := mode.toState } = true := by
    cases mode
    · exact absurd rfl hmode
    · rfl
    · rfl
  have hset : ∀ receiver, EgressesOk (s.setPort p
      { s.port p with commanded := mode, state := mode.toState, blockTimer := none, receiver := receiver }) :=
    fun receiver => h.setPort ⟨⟨(h p).egress, fun hout => absurd (hservice.symm.trans hout) nofun⟩, (h p).idle⟩
  split
  · exact (hset _).trunkLeavesActive
  · exact hset _

/-! ## Reception -/

theorem EgressesOk.setReceiver (h : EgressesOk s) (x : Receiver) (hp : s.inService p = true ∨ x = .idle) :
    EgressesOk (s.setReceiver p x) := by
  refine h.setPort ⟨⟨(h p).egress, fun hout => ?_⟩, (h p).idle⟩
  rcases hp with hin | hidle
  · rw [inService_eq_unit] at hin
    exact absurd (hin.symm.trans hout) nofun
  · exact ⟨hidle, ((h p).outOfService hout).2⟩

theorem EgressesOk.count (h : EgressesOk s) (p : Port) (c : Counter) : EgressesOk (s.count p c) :=
  fun x => ((h.fit (fun _ => False)).count p c x).2 id

theorem EgressesOk.countError (h : EgressesOk s) (c : Counter) : EgressesOk (s.countError p c) := by
  have hcounted := h.count p c
  unfold State.countError State.block
  simp only
  split
  · have hleft := hcounted.leaveService (p := p)
      (v := { (s.count p c).port p with errorCount := satNext 255 ((s.count p c).port p).errorCount })
      (hcounted p).egress .blocked
    exact hleft.setPort (p := p) ((hleft p).of_eq rfl rfl rfl)
  · exact hcounted.setPort ((hcounted p).of_eq rfl rfl rfl)

theorem EgressesOk.judgeReception (h : EgressesOk s) {stored : List Byte} {n : Nat} {cutOff : Bool} :
    EgressesOk (s.judgeReception p stored n cutOff) := by
  unfold State.judgeReception
  split
  · split
    · exact h.count p .rxAbort
    · split
      · exact h.countError _
      · next f _ =>
        have hcounted := h.count p .rxGood
        rcases claimSlot_cases (s.count p .rxGood) p f with ⟨-, e⟩ | ⟨-, -, e⟩ | ⟨-, n, -, e⟩ <;> rw [e]
        · exact hcounted.count p .rxQuota
        · exact hcounted.count p .rxNoSlot
        · exact hcounted
  · exact h

/-- A frame that a start mark cuts off blocks no port. -/
theorem judgeReception_cutOff_inService (s : State) (p : Port) (stored : List Byte) (n : Nat) :
    (s.judgeReception p stored n true).inService p = s.inService p := by
  unfold State.judgeReception
  split
  · rw [if_pos rfl]
    exact (count_only s p .rxAbort).inService_eq p
  · rfl

theorem EgressesOk.receiveEnding {ending : Ending} (h : EgressesOk s) (hp : s.inService p = true) :
    EgressesOk (s.receiveEnding p ending) := by
  have hidle : EgressesOk (s.setReceiver p .idle) := h.setReceiver _ (.inr rfl)
  have hidleService : (s.setReceiver p .idle).inService p = true := by
    unfold State.setReceiver State.inService
    rw [State.port_setPort_self]
    exact hp
  unfold State.receiveEnding
  simp only
  split
  · next hstart =>
    subst hstart
    split
    · exact h.setReceiver _ (.inl hp)
    · refine hidle.judgeReception.setReceiver _ (.inl ?_)
      rw [show decide (Ending.startMark ≠ .endMark) = true from rfl, judgeReception_cutOff_inService]
      exact hidleService
  · split
    · exact h
    · exact hidle.judgeReception

/-! ## Completions and resets -/

/-- A completion settles its port with the selection that ends it, and the Notice Unit settles every other (R107). -/
theorem EgressesOk.finishTransmission {n : Nat} (h : EgressesOk s) (hn : (s.port p).egress.transmitter = some n) :
    EgressesOk (s.finishTransmission p n) := by
  have hin : unitInService (s.port p) = true := by
    cases hv : unitInService (s.port p) with
    | true => rfl
    | false =>
      rw [((h p).outOfService hv).2.1] at hn
      cases hn
  have hended : EgressesFit (fun q => q = p) (s.endTransmission p n) := by
    intro q
    by_cases hq : q = p
    · subst hq
      refine ⟨?_, fun hne => absurd rfl hne⟩
      rw [endTransmission_port]
      exact .of_sameUnit (v := s.port q) rfl hin (h q).egress
    · rw [(endTransmission_only s p n).others q hq]
      exact ⟨(h q).toUnitFits, fun _ => h q⟩
  have hselected : ∀ u, EgressesFit (fun q => q = p) u → EgressesOk (u.select p) :=
    fun u hu => (hu.select p).settle (select_settles (hu p).1)
  have hserved : ∀ u, EgressesFit (fun q => q = p) u → EgressesFit (fun q => q = p) u.takeService :=
    fun u hu => takeService_keeps (fun _ p f hs => hs.placeOwn p f) (fun _ _ hs => hs) hu
  rcases finishTransmission_cases s p n with e | e | e <;> rw [e]
  · exact hselected _ hended
  · exact hselected _ (hended.of_ports rfl)
  · exact hselected _ (hserved _ (hended.of_ports rfl))

theorem EgressesOk.of_map {f : PortUnit → PortUnit} (h : EgressesOk s) (hports : t.ports = s.ports.map f)
    (hf : ∀ v, UnitSettled v → UnitSettled (f v)) : EgressesOk t := by
  intro q
  unfold State.port
  rw [hports, PerPort.get_map]
  exact hf _ (h q)

/-- The five egresses stopped: every unit settled. -/
theorem EgressesOk.stopAll (h : EgressesOk s) : EgressesOk s.stopAll := by
  intro q
  have hport := stopAll_port s q
  generalize (s.stopAll.port q).counters = k at hport
  rw [hport]
  exact .of_empty (h q).egress.stopped (stoppedEgress_empty _) (fun hout => ((h q).outOfService hout).1)

theorem EgressesOk.restartTraffic (h : EgressesOk s) : EgressesOk s.restartTraffic := by
  have hstopped := h.stopAll
  unfold State.restartTraffic
  generalize s.stopAll = u at hstopped
  exact hstopped.of_map (f := PortUnit.restartTraffic) rfl (fun _ hv => hv.of_eq rfl rfl rfl)

/-- A unit at the start of a reset has an empty egress with the shares of a reset (R113). -/
theorem startReset_unit_settled (v : PortUnit) : UnitSettled v.startReset := by
  refine .of_empty ⟨fun c => ?_, ⟨nofun, nofun, nofun, ?_, ?_, ?_⟩⟩ ⟨rfl, rfl⟩ (fun _ => rfl)
  case refine_2 => show 1 ≤ 4; omega
  case refine_3 => show 1 ≤ 2; omega
  case refine_4 => show 1 ≤ 1; omega
  rcases cls_cases c with rfl | rfl | rfl | rfl <;> exact Nat.zero_le _

theorem startReset_egressesOk (s : State) (count : Nat) : EgressesOk (s.startReset count) := by
  intro q
  unfold State.port State.startReset
  simp only [PerPort.get_map]
  exact startReset_unit_settled _

theorem EgressesOk.device (h : EgressesOk s) (d : Device) : EgressesOk { s with device := d } := h

theorem EgressesOk.beginStarting (h : EgressesOk s) : EgressesOk s.beginStarting :=
  h.of_map (f := fun v => { v with errorWindow := Config.windowMs }) rfl (fun _ hv => hv.of_eq rfl rfl rfl)

/-! ## Commands and events -/

/-- The settings of a SET_PORT give every class a share (R164). -/
theorem UnitSettled.withSettings {v : PortUnit} {payload : List Byte} (h : UnitSettled v)
    (hargs : setPortArgsOk payload = true) : UnitSettled (v.withSettings payload) := by
  obtain ⟨⟨⟨hdepth, hround2, hround1, hround0, -⟩, hout⟩, hidle⟩ := h
  unfold setPortArgsOk at hargs
  simp only [Bool.and_eq_true, decide_eq_true_eq] at hargs
  obtain ⟨⟨⟨-, h2⟩, h1⟩, h0⟩ := hargs
  exact ⟨⟨⟨hdepth, hround2, hround1, hround0, h2.1, h1.1, h0.1⟩, hout⟩, hidle⟩

theorem EgressesOk.settleReady (h : EgressesOk s) : EgressesOk s.settleReady := by
  rw [settleReady_eq]
  exact h

theorem EgressesOk.command {r : Request} (h : EgressesOk s) (he : CommandEffect r s t) : EgressesOk t := by
  cases he
  case setPort p payload mode hargs => exact (h.setPort ((h p).withSettings hargs)).applyMode mode
  case clearCounters p => exact h.setPort ((h p).of_eq rfl rfl rfl)
  case ack => exact EgressesOk.settleReady h
  case setNotice => exact EgressesOk.settleReady h
  case traffic => exact h.restartTraffic
  all_goals exact h

theorem EgressesOk.event (h : EgressesOk s) (he : EventEffect s t) : EgressesOk t := by
  cases he
  case request r f a _ ha => exact EgressesOk.completeRequest (h.command ha)
  case restartFull r f a _ ha => exact EgressesOk.completeRequest (by rw [ha]; exact h)
  case resetLow => exact (startReset_egressesOk s 0).device _
  case release =>
    refine h.beginStarting.of_map (f := fun v => { v with egress := { v.egress with line := .idleFill } }) rfl ?_
    exact fun v hv => ⟨⟨hv.egress, hv.outOfService⟩, hv.idle⟩
  case restartPoint => exact (startReset_egressesOk s _).beginStarting
  case startMark p _ hp => exact h.receiveEnding hp
  case endOfFrame p data ending _ hp =>
    refine EgressesOk.receiveEnding (h.setReceiver _ (.inl hp)) ?_
    unfold State.inService State.setReceiver
    rw [State.port_setPort_self]
    exact hp
  case classified p n rest x _ _ _ =>
    exact EgressesOk.of_ports ((EgressesOk.classifier n).classify (s := s.setAwaiting p rest) h) (releaseRef_ports _ n)
  case transmitted p n _ ht => exact h.finishTransmission ht
  case syncExpired => exact h.of_ports (by rw [(loseSync_only s 0).1])
  case unblocked p _ hb =>
    have hout : unitInService (s.port p) = false := by unfold unitInService; rw [hb]; rfl
    exact h.setPort ((h p).of_outOfService hout (fun _ => rfl) rfl)
  case errorWindow p _ => exact h.setPort ((h p).of_eq rfl rfl rfl)
  case served =>
    intro q
    have hserved : EgressesFit (fun _ => False) s.takeService :=
      takeService_keeps (fun _ p f hs => hs.placeOwn p f) (fun _ _ hs => hs) (h.fit _)
    exact (hserved q).2 id
  case millisecond hlow =>
    unfold State.millisecond
    rw [if_neg (by simp [hlow])]
    exact h.of_map (f := PortUnit.countDown) rfl (fun _ hv => hv.of_eq rfl rfl rfl)
  all_goals exact h

/-- Settles O57, over every event's effect. -/
theorem stepKeepsTheEgresses : Obligations.StepKeepsTheEgresses := by
  unfold Obligations.StepKeepsTheEgresses
  intro s t hqueues hidle hout hstep
  obtain ⟨rest, heffect⟩ := step_effect hstep
  have hsettled : EgressesOk { s with pending := rest } := egressesOk_iff.mpr ⟨hqueues, hidle, hout⟩
  exact egressesOk_iff.mp (hsettled.event heffect)

end Sys2Proof.Safety
end

section
/-! SUPPORT. The Management Agent's depths, keys and address (R137, R140, R143, R149): one entry at most for a key, in cache,
execution position and request queue together. -/

namespace Sys2Proof.Safety

open Sys2Proof.Machine

variable {s t : State} {p : Port}

/-- The Agent's depths, keys and address in form. -/
structure AgentOk (a : Agent) : Prop where
  queue : a.queue.length ≤ Config.requestDepth
  cache : a.cache.length ≤ Config.cacheDepth
  keys : (agentKeys a).Nodup
  address : isStation a.address = true

theorem agentOk_iff : AgentOk s.agent ↔ AgentDepthsOk s ∧ KeysOk s ∧ AddressOk s :=
  ⟨fun h => ⟨⟨h.queue, h.cache⟩, h.keys, h.address⟩, fun ⟨⟨hq, hc⟩, hk, ha⟩ => ⟨hq, hc, hk, ha⟩⟩

/-- Two Agents hold the same requests and cached replies. -/
structure SameRequests (a b : Agent) : Prop where
  queue : b.queue = a.queue
  executing : b.executing = a.executing
  cache : b.cache = a.cache

theorem SameRequests.refl (a : Agent) : SameRequests a a := ⟨rfl, rfl, rfl⟩

theorem SameRequests.keys {a b : Agent} (h : SameRequests a b) : agentKeys b = agentKeys a := by
  unfold agentKeys
  rw [h.queue, h.executing, h.cache]

theorem AgentOk.of_same {a b : Agent} (h : AgentOk a) (hs : SameRequests a b) (ha : isStation b.address = true) :
    AgentOk b := by
  refine ⟨?_, ?_, ?_, ha⟩
  · rw [hs.queue]; exact h.queue
  · rw [hs.cache]; exact h.cache
  · rw [hs.keys]; exact h.keys

/-- An Agent without requests and replies. -/
theorem AgentOk.fresh {address : Word} (h : isStation address = true) (count : Nat) : AgentOk (.fresh address count) :=
  ⟨Nat.zero_le _, Nat.zero_le _, List.nodup_nil, h⟩

/-! ## Keys -/

/-- The execution position is emptied into the cache, whose oldest entry leaves when it is full (R145, R149). -/
theorem AgentOk.answered {a : Agent} {r : Request} (h : AgentOk a) (hr : a.executing = some r) (reply : Frame) (lost : Count)
    (claim : Option Claim) :
    AgentOk
      { a with
        executing := none, claim := claim, replyLost := lost
        cache := (a.cache ++ [(⟨r.source, r.id, reply⟩ : CacheEntry)]).drop (a.cache.length + 1 - Config.cacheDepth) } := by
  have hkeys := h.keys
  have hcache := h.cache
  refine ⟨h.queue, ?_, ?_, h.address⟩
  · simp only [List.length_drop, List.length_append, List.length_singleton]
    omega
  · refine List.Nodup.sublist ?_ hkeys
    unfold agentKeys
    rw [hr]
    simp only [Option.toList_none, List.map_nil, List.append_nil, Option.toList_some, List.map_cons, List.map_drop,
      List.map_append]
    exact (List.drop_sublist _ _).append (List.Sublist.refl _)

/-- The head of the request queue moves into the execution position: no key comes or goes (R144). -/
theorem AgentOk.takeRequest (h : AgentOk s.agent) : AgentOk s.takeRequest.agent := by
  unfold State.takeRequest
  split
  · next hc =>
    split
    · exact h
    · next r rest hq =>
      have hqueue := h.queue
      have hkeys := h.keys
      unfold agentKeys at hkeys
      rw [hq, hc.1] at hkeys
      rw [hq, List.length_cons] at hqueue
      refine ⟨Nat.le_of_succ_le hqueue, h.cache, ?_, h.address⟩
      unfold agentKeys
      simpa using hkeys
  · exact h

theorem cached_eq_none {a : Agent} {source id : Word} (h : a.cached source id = none) :
    (source, id) ∉ a.cache.map (fun e => (e.source, e.id)) := by
  unfold Agent.cached at h
  intro hmem
  obtain ⟨e, he, hkey⟩ := List.mem_map.mp hmem
  obtain ⟨hsource, hid⟩ := Prod.mk.inj hkey
  have := List.find?_eq_none.mp (Option.map_eq_none_iff.mp h) e he
  simp [hsource, hid] at this

theorem hasKey_iff {source id : Word} {r : Request} : r.hasKey source id = true ↔ (r.source, r.id) = (source, id) := by
  unfold Request.hasKey
  simp

theorem duplicate_eq_false {a : Agent} {source id : Word} (h : a.duplicate source id = false) :
    (source, id) ∉ a.executing.toList.map (fun r => (r.source, r.id)) ∧
      (source, id) ∉ a.queue.map (fun r => (r.source, r.id)) := by
  unfold Agent.duplicate at h
  obtain ⟨hexecuting, hqueue⟩ := Bool.or_eq_false_iff.mp h
  constructor <;> intro hmem <;> obtain ⟨r, hr, hkey⟩ := List.mem_map.mp hmem
  · rw [Option.mem_toList] at hr
    rw [hr] at hexecuting
    exact absurd (hasKey_iff.mpr hkey) (by simp [hexecuting])
  · exact absurd (hasKey_iff.mpr hkey) (by simpa using List.any_eq_false.mp hqueue r hr)

/-- A request that joins the queue has a key of its own (R140). -/
theorem AgentOk.capture {a : Agent} {source id : Word} {n : Nat} (h : AgentOk a) (hc : a.cached source id = none)
    (hd : a.duplicate source id = false) (hq : a.queue.length < Config.requestDepth) :
    AgentOk { a with queue := a.queue ++ [⟨source, id, p, n⟩] } := by
  have hkeys := h.keys
  obtain ⟨hexecuting, hqueue⟩ := duplicate_eq_false hd
  have hcache := cached_eq_none hc
  refine ⟨by rw [List.length_append]; exact hq, h.cache, ?_, h.address⟩
  unfold agentKeys at *
  rw [List.map_append, ← List.append_assoc]
  refine List.nodup_append.mpr ⟨hkeys, List.pairwise_singleton _ _, fun k hk k' hk' hsame => ?_⟩
  rw [hsame, List.mem_singleton.mp hk', List.mem_append, List.mem_append] at hk
  rcases hk with (hk | hk) | hk
  · exact hcache hk
  · exact hexecuting hk
  · exact hqueue hk

/-! ## What leaves the Agent alone -/

/-- What is said of the Agent alone, and not of its discards, is kept by what the ports do. -/
theorem agent_keptByPorts {Q : Agent → Prop} (hdiscard : ∀ a n, Q a → Q { a with startupDiscards := n }) :
    KeptByPorts (fun s => Q s.agent) where
  egress := fun _ _ _ h => h
  count := fun _ _ _ h => h
  report := fun s n h => (reportEnd_only s .t n).agent ▸ h
  release := fun s n h => (releaseRef_only s .t n).agent ▸ h
  addRef := fun s n h => (addRef_only s .t n).agent ▸ h
  setPort := fun _ _ _ h => h
  trunk := fun s h => by
    rcases trunkLeavesActive_cases s with ⟨_, e⟩ | ⟨_, e⟩ <;> rw [e]
    · rw [(loseSync_only s 1).1]
      exact h
    · exact h
  forget := fun _ _ h => h
  claimSlot := fun s p f h => by
    rcases claimSlot_cases s p f with ⟨-, e⟩ | ⟨-, -, e⟩ | ⟨-, n, -, e⟩ <;> rw [e] <;> exact h
  discard := fun s h => hdiscard s.agent _ h
  raise := fun _ _ _ h => h

theorem AgentOk.ports : KeptByPorts (fun s => AgentOk s.agent) :=
  agent_keptByPorts (fun _ _ h => h.of_same ⟨rfl, rfl, rfl⟩ h.address)

theorem AgentOk.own (s : State) (p : Port) (f : Frame) (h : AgentOk s.agent) : AgentOk (s.placeOwn p f).2.agent :=
  (placeOwn_only s p f).agent ▸ h

theorem AgentOk.classifier (n : Nat) : KeptByClassifier n (fun s => AgentOk s.agent) where
  place := fun _ _ _ _ h => AgentOk.ports.place h
  own := AgentOk.own
  count := fun _ _ _ h => h
  agent := fun _ _ hq he hc ha h => h.of_same ⟨hq, he, hc⟩ (ha ▸ h.address)
  capture := fun s source id p hc hd hq h => by
    unfold State.capture
    apply AgentOk.takeRequest
    have hcaptured := AgentOk.ports.addRef
      { s with agent := { s.agent with queue := s.agent.queue ++ [⟨source, id, p, n⟩] } } n (h.capture hc hd hq)
    exact hcaptured
  rewrite := fun s f h => by
    rcases rewriteSlot_cases s n f with ⟨_, e⟩ | ⟨x, _, e⟩ <;> rw [e] <;> exact h
  raise := fun _ _ _ h => h
  trunkSync := fun s _ h => by rw [(trunkSync_only s).1]; exact h
  learn := fun s a p h => by rw [learn_only s a p]; exact h
  countHit := fun s d h => by rw [countHit_only]; exact h
  consult := fun s k c h => by rw [consult_only s k c]; exact h

/-! ## Commands and events -/

theorem settleReady_agent (s : State) : s.settleReady.agent = s.agent := by rw [settleReady_eq]

theorem stopAll_agent (s : State) : s.stopAll.agent = s.agent := by
  have h := stopAll_only s
  generalize s.stopAll = u at h ⊢
  rw [h]

theorem restartTraffic_agent (s : State) : s.restartTraffic.agent = s.agent := by
  have hstopped := stopAll_agent s
  unfold State.restartTraffic
  generalize s.stopAll = u at hstopped
  exact hstopped

/-- A command leaves the requests and the replies as they were, and a station address. -/
theorem CommandEffect.requests {r : Request} (he : CommandEffect r s t) (h : isStation s.agent.address = true) :
    SameRequests s.agent t.agent ∧ isStation t.agent.address = true := by
  have hsame : SameRequests s.agent s.agent ∧ isStation s.agent.address = true := ⟨.refl _, h⟩
  have hports : KeptByPorts (fun u => SameRequests s.agent u.agent ∧ isStation u.agent.address = true) :=
    agent_keptByPorts (Q := fun a => SameRequests s.agent a ∧ isStation a.address = true)
      (fun _ _ ⟨hs, ha⟩ => ⟨⟨hs.queue, hs.executing, hs.cache⟩, ha⟩)
  have settled : ∀ u : State, SameRequests s.agent u.agent ∧ isStation u.agent.address = true →
      SameRequests s.agent u.settleReady.agent ∧ isStation u.settleReady.agent.address = true :=
    fun u hu => by rwa [settleReady_agent]
  cases he
  case claim => exact ⟨⟨rfl, rfl, rfl⟩, h⟩
  case address a ha => exact ⟨⟨rfl, rfl, rfl⟩, ha⟩
  case setPort p payload mode _ => exact hports.applyMode (hports.setPort _ _ _ hsame)
  case ack => exact settled _ hsame
  case setNotice => exact settled _ hsame
  case traffic =>
    rw [restartTraffic_agent]
    exact hsame
  all_goals exact hsame

/-- Steps 4 to 6 of R145 move the executing request's key into the cache, and take the next request. -/
theorem AgentOk.completeRequest {r : Request} {f : Frame} {restart : Bool} {a : Answer} (h : AgentOk a.state.agent)
    (hr : a.state.agent.executing = some r) : AgentOk (completeRequest r f restart a).agent := by
  rw [completeRequest_eq]
  unfold endExecution
  apply AgentOk.takeRequest
  simp only
  rw [(releaseRef_only _ .t r.slot).agent, offeredReply_agent]
  exact h.answered hr _ _ _

theorem isStation_of_straps (straps : BitVec 6) : isStation (Config.addressBase + straps.setWidth 16) = true := by
  revert straps
  decide

theorem AgentOk.startReset (h : AgentOk s.agent) (count : Nat) : AgentOk (s.startReset count).agent := by
  have hstopped := AgentOk.ports.stopAll h
  unfold State.startReset
  generalize s.stopAll = u at hstopped
  exact .fresh hstopped.address count

theorem AgentOk.beginStarting (h : AgentOk s.agent) : AgentOk s.beginStarting.agent := h.of_same ⟨rfl, rfl, rfl⟩ h.address

theorem AgentOk.finishTransmission {n : Nat} (h : AgentOk s.agent) : AgentOk (s.finishTransmission p n).agent := by
  have hended : AgentOk (s.endTransmission p n).agent := AgentOk.ports.toKeptByEgress.endTransmission h
  have hserved : ∀ u : State, AgentOk u.agent → AgentOk u.takeService.agent := fun u hu =>
    takeService_keeps (P := fun s => AgentOk s.agent) AgentOk.own (fun _ _ h => h) hu
  have hchosen : ∀ k, AgentOk ({ s.endTransmission p n with choices := k } : State).agent := fun _ => hended
  rcases finishTransmission_cases s p n with e | e | e <;> rw [e]
  · exact AgentOk.ports.toKeptByEgress.select hended
  · exact AgentOk.ports.toKeptByEgress.select (hchosen _)
  · exact AgentOk.ports.toKeptByEgress.select (hserved _ (hchosen _))

theorem AgentOk.event (h : AgentOk s.agent) (he : EventEffect s t) : AgentOk t.agent := by
  cases he
  case request r f a hexec ha =>
    obtain ⟨hsame, haddress⟩ := ha.requests h.address
    exact (h.of_same hsame haddress).completeRequest (by rw [hsame.executing]; exact (Executing_running hexec).2.2)
  case restartFull r f a hexec ha =>
    refine AgentOk.completeRequest ?_ ?_ <;> rw [ha]
    · exact h
    · exact (Executing_running hexec).2.2
  case resetLow => exact h.startReset 0
  case release straps _ => exact h.beginStarting.of_same ⟨rfl, rfl, rfl⟩ (isStation_of_straps straps)
  case sweep =>
    refine ⟨h.queue, Nat.zero_le _, ?_, h.address⟩
    refine List.Nodup.sublist ?_ h.keys
    exact ((List.nil_sublist _).append (List.Sublist.refl _)).append (List.Sublist.refl _)
  case restartPoint => exact (h.startReset _).beginStarting
  case startMark p _ hp => exact AgentOk.ports.receiveEnding h
  case endOfFrame p data ending _ hp => exact AgentOk.ports.receiveEnding (AgentOk.ports.setPort _ _ _ h)
  case classified p n rest x _ _ _ =>
    exact AgentOk.ports.release _ _ ((AgentOk.classifier n).classify (s := s.setAwaiting p rest) h)
  case transmitted p n _ ht => exact h.finishTransmission
  case syncExpired => rw [(loseSync_only s 0).1]; exact h
  case claimExpired => exact h.of_same ⟨rfl, rfl, rfl⟩ h.address
  case served => exact takeService_keeps (P := fun s => AgentOk s.agent) AgentOk.own (fun _ _ h => h) h
  case millisecond hlow =>
    unfold State.millisecond
    rw [if_neg (by simp [hlow])]
    exact h.of_same ⟨rfl, rfl, rfl⟩ h.address
  all_goals exact h

end Sys2Proof.Safety
end

section
/-! SUPPORT. The sequence that a first send takes (R188): the first after the counter's that no source in service has. At
most eight are in use, so among nine in a row one is free. -/

namespace Sys2Proof.Safety

open Sys2Proof.Machine

variable {s : State}

theorem sequenceInUse_iff {n : Nat} : sequenceInUse s n = true ↔ SequenceTaken s n := by
  unfold sequenceInUse SequenceTaken
  simp only [List.any_eq_true]
  constructor
  · rintro ⟨q, -, hq⟩
    split at hq
    · cases hq
    · next x hx => exact ⟨q, x, hx, of_decide_eq_true hq⟩
  · rintro ⟨q, x, hx, hn⟩
    refine ⟨q, by cases q <;> decide, ?_⟩
    rw [hx]
    exact decide_eq_true hn

theorem sequenceAfter_succ (n k : Nat) : sequenceAfter (afterSequence n) k = sequenceAfter n (k + 1) := by
  induction k with
  | zero => rfl
  | succ k ih => exact congrArg followingSequence ih

theorem afterSequence_range (n : Nat) : 1 ≤ afterSequence n ∧ afterSequence n ≤ 255 := by
  unfold afterSequence
  split <;> omega

/-- The sequences in a row, as remainders. -/
theorem sequenceAfter_eq {n : Nat} (h1 : 1 ≤ n) (h2 : n ≤ 255) (k : Nat) : sequenceAfter n k = (n - 1 + k) % 255 + 1 := by
  induction k with
  | zero => show n = _; omega
  | succ k ih =>
    show followingSequence (sequenceAfter n k) = _
    rw [ih]
    unfold followingSequence
    split <;> omega

/-- The search finds the first free sequence, or its fuel's worth of sequences is taken. -/
theorem skipSequences_spec (fuel : Nat) (s : State) (n : Nat) :
    (∃ k, skipSequences fuel s n = sequenceAfter n k ∧ ¬ SequenceTaken s (sequenceAfter n k) ∧
      ∀ j, j < k → SequenceTaken s (sequenceAfter n j)) ∨
    ∀ j, j < fuel → SequenceTaken s (sequenceAfter n j) := by
  induction fuel generalizing n with
  | zero => exact .inr (fun _ h => nomatch h)
  | succ fuel ih =>
    unfold skipSequences
    by_cases hn : sequenceInUse s n = true
    · rw [if_pos hn]
      have hfirst : ∀ j m, j < m + 1 → (∀ i, i < m → SequenceTaken s (sequenceAfter (afterSequence n) i)) →
          SequenceTaken s (sequenceAfter n j) := by
        intro j m hj hrest
        cases j with
        | zero => exact sequenceInUse_iff.mp hn
        | succ j =>
          rw [← sequenceAfter_succ]
          exact hrest j (Nat.lt_of_succ_lt_succ hj)
      rcases ih (afterSequence n) with ⟨k, hk, hfree, htaken⟩ | hall
      · rw [sequenceAfter_succ] at hk hfree
        exact .inl ⟨k + 1, hk, hfree, fun j hj => hfirst j k hj htaken⟩
      · exact .inr (fun j hj => hfirst j fuel hj hall)
    · rw [if_neg hn]
      exact .inl ⟨0, rfl, fun h => hn (sequenceInUse_iff.mpr h), fun _ h => nomatch h⟩

theorem mem_allSources (q : Source) : q ∈ allSources := by cases q <;> decide

/-- The sequences that the sources in service have. -/
def takenSequences (s : State) : List Nat := allSources.filterMap (fun q => (s.source q).record.map NoticeRecord.sequence)

theorem mem_takenSequences {n : Nat} (h : SequenceTaken s n) : n ∈ takenSequences s := by
  obtain ⟨q, x, hx, hsequence⟩ := h
  exact List.mem_filterMap.mpr ⟨q, mem_allSources q, by rw [hx, Option.map_some, hsequence]⟩

/-- Nine sequences in a row are nine different ones. -/
theorem nine_sequences_nodup {n : Nat} (h1 : 1 ≤ n) (h2 : n ≤ 255) : ((List.range 9).map (sequenceAfter n)).Nodup := by
  refine List.pairwise_map.mpr (List.nodup_range.imp_of_mem (fun {j k} hj hk hne heq => hne ?_))
  have hj := List.mem_range.mp hj
  have hk := List.mem_range.mp hk
  rw [sequenceAfter_eq h1 h2, sequenceAfter_eq h1 h2] at heq
  omega

/-- Eight sources cannot take nine sequences in a row. -/
theorem nine_not_taken (n : Nat) (h1 : 1 ≤ n) (h2 : n ≤ 255) : ¬ ∀ j, j < 9 → SequenceTaken s (sequenceAfter n j) := by
  intro hall
  have hsub : (List.range 9).map (sequenceAfter n) ⊆ takenSequences s := fun m hm => by
    obtain ⟨j, hj, rfl⟩ := List.mem_map.mp hm
    exact mem_takenSequences (hall j (List.mem_range.mp hj))
  have hmore : 9 ≤ (takenSequences s).length := (nine_sequences_nodup h1 h2).length_le_of_subset hsub
  have hfew : (takenSequences s).length ≤ 8 := List.length_filterMap_le _ _
  omega

/-- What a first send takes is the next sequence that no source in service has (R188). -/
theorem nextSequence_spec (s : State) : NextSequence s (nextSequence s) := by
  obtain ⟨h1, h2⟩ := afterSequence_range s.notices.sequence
  rcases skipSequences_spec 9 s (afterSequence s.notices.sequence) with ⟨k, hk, hfree, htaken⟩ | hall
  · rw [← hk] at hfree
    refine ⟨k, ?_, hfree, fun j hj => ?_⟩
    · rw [← sequenceAfter_succ]
      exact hk
    · rw [← sequenceAfter_succ]
      exact htaken j hj
  · exact absurd hall (nine_not_taken _ h1 h2)

theorem nextSequence_range (s : State) : 1 ≤ nextSequence s ∧ nextSequence s ≤ 255 := by
  obtain ⟨k, hk, -, -⟩ := nextSequence_spec s
  rw [hk]
  exact afterSequence_range _

end Sys2Proof.Safety
end

section
/-! SUPPORT. The sequences of the sources in service stay distinct (R188). -/

namespace Sys2Proof.Safety

open Sys2Proof.Machine

variable {s t : State} {p : Port}

theorem source_get_set {α : Type} (x : PerSource α) (r q : Source) (v : α) :
    (x.set r v).get q = if q = r then v else x.get q := by
  split
  · next h => rw [h, PerSource.get_set_self]
  · next h => exact PerSource.get_set_other x h v

/-! ## What leaves the records alone -/

/-- Records that end, and none that begins. -/
def RecordsKept (u v : NoticeUnit) : Prop :=
  ∀ q, (v.sources.get q).record = (u.sources.get q).record ∨ (v.sources.get q).record = none

theorem RecordsKept.refl (u : NoticeUnit) : RecordsKept u u := fun _ => .inl rfl

theorem RecordsKept.of_sources {u v : NoticeUnit} (h : v.sources = u.sources) : RecordsKept u v :=
  fun q => .inl (by rw [h])

/-- One source written, with its record kept or ended. -/
theorem RecordsKept.set {u : NoticeUnit} {r : Source} {x : NoticeSource}
    (h : x.record = (u.sources.get r).record ∨ x.record = none) : RecordsKept u { u with sources := u.sources.set r x } := by
  intro q
  simp only [source_get_set]
  split
  · next hq => rw [hq]; exact h
  · exact .inl rfl

theorem SequencesOk.of_kept (h : SequencesOk s) (hk : RecordsKept s.notices t.notices) : SequencesOk t := by
  obtain ⟨hdistinct, hrange⟩ := h
  have hold : ∀ q x, (t.source q).record = some x → (s.source q).record = some x := by
    intro q x hx
    rcases hk q with e | e
    · exact e.symm.trans hx
    · exact nomatch e.symm.trans hx
  exact ⟨fun q r x y hx hy hxy => hdistinct q r x y (hold q x hx) (hold r y hy) hxy, fun q x hx => hrange q x (hold q x hx)⟩

theorem SequencesOk.of_notices (h : SequencesOk s) (e : t.notices.sources = s.notices.sources) : SequencesOk t :=
  h.of_kept (.of_sources e)

theorem SequencesOk.raise (h : SequencesOk s) (r : Source) (d : Word) : SequencesOk (s.raise r d) := by
  refine h.of_kept (t := s.raise r d) (fun q => .inl ?_)
  unfold State.raise
  simp only [source_get_set]
  split
  · next hq => rw [hq]; rfl
  · rfl

theorem EgressOnly.sources {l : List Nat} (h : EgressOnly p l s t) : t.notices.sources = s.notices.sources := by
  rw [h.notices]

theorem SequencesOk.ports : KeptByPorts SequencesOk where
  egress := fun _ _ _ h => h
  count := fun _ _ _ h => h
  report := fun s n h => h.of_notices (reportEnd_only s .t n).sources
  release := fun s n h => h.of_notices (releaseRef_only s .t n).sources
  addRef := fun s n h => h.of_notices (addRef_only s .t n).sources
  setPort := fun _ _ _ h => h
  trunk := fun s h => by
    rcases trunkLeavesActive_cases s with ⟨_, e⟩ | ⟨_, e⟩ <;> rw [e]
    · exact (h.raise .syncLost 1).of_notices (by rw [(loseSync_only s 1).1])
    · exact h
  forget := fun _ _ h => h
  claimSlot := fun s p f h => by
    rcases claimSlot_cases s p f with ⟨-, e⟩ | ⟨-, -, e⟩ | ⟨-, n, -, e⟩ <;> rw [e]
    · exact h
    · exact SequencesOk.raise (s := s.count p .rxNoSlot) h _ _
    · exact h
  discard := fun _ h => h
  raise := fun _ r d h => h.raise r d

theorem SequencesOk.own (h : SequencesOk s) (p : Port) (f : Frame) : SequencesOk (s.placeOwn p f).2 :=
  h.of_notices (placeOwn_only s p f).sources

theorem SequencesOk.learn (h : SequencesOk s) (a : Word) (p : Port) : SequencesOk (s.learn a p).2 := by
  unfold State.learn
  split
  · split
    · exact h.raise _ _
    · exact h
  · split
    · split <;> exact h
    · split
      · exact h
      · unfold State.countMove
        simp only
        split
        · exact SequencesOk.raise (s := { s.writeLearned a p with stations := _ }) h _ _
        · exact h

theorem SequencesOk.consult (h : SequencesOk s) (k c : Nat) : SequencesOk (s.consult k c).2 := by
  unfold State.consult
  simp only
  split
  · exact h
  · split
    · exact h
    · simp only
      split
      · exact SequencesOk.raise (s := s.setMeter k _) h _ _
      · exact h

theorem SequencesOk.classifier (n : Nat) : KeptByClassifier n SequencesOk where
  place := fun _ _ _ _ h => SequencesOk.ports.place h
  own := fun _ p f h => h.own p f
  count := fun _ _ _ h => h
  agent := fun _ _ _ _ _ _ h => h
  capture := fun s source id p _ _ _ h => by
    unfold State.capture
    rw [takeRequest_only]
    exact SequencesOk.ports.addRef { s with agent := _ } n h
  rewrite := fun s f h => by
    rcases rewriteSlot_cases s n f with ⟨_, e⟩ | ⟨x, _, e⟩ <;> rw [e] <;> exact h
  raise := fun _ r d h => h.raise r d
  trunkSync := fun s _ h => h.of_notices (by rw [(trunkSync_only s).1])
  learn := fun _ a p h => h.learn a p
  countHit := fun s d h => h.of_notices (by rw [countHit_only])
  consult := fun _ k c h => h.consult k c

/-! ## Sending -/

theorem SequencesOk.firstSend (h : SequencesOk s) (r : Source) : SequencesOk (s.firstSend r) := by
  obtain ⟨hdistinct, hrange⟩ := h
  obtain ⟨k, -, hfree, -⟩ := nextSequence_spec s
  have hother : ∀ q x, (s.source q).record = some x → x.sequence ≠ nextSequence s := fun q x hx he => hfree ⟨q, x, hx, he⟩
  unfold State.firstSend State.offerNotice
  refine SequencesOk.own ?_ _ _
  have hsource : ∀ (x : NoticeSource) q,
      (({ s with notices := { s.notices with sequence := nextSequence s } } : State).setSource r x).source q =
        if q = r then x else s.source q := fun x q => source_get_set _ _ _ _
  constructor
  · intro q q' x y hx hy hxy
    rw [hsource] at hx hy
    by_cases hq : q = r <;> by_cases hq' : q' = r
    · rw [hq, hq']
    · rw [if_pos hq] at hx
      rw [if_neg hq'] at hy
      cases hx
      exact absurd hxy.symm (hother q' y hy)
    · rw [if_neg hq] at hx
      rw [if_pos hq'] at hy
      cases hy
      exact absurd hxy (hother q x hx)
    · rw [if_neg hq] at hx
      rw [if_neg hq'] at hy
      exact hdistinct q q' x y hx hy hxy
  · intro q x hx
    rw [hsource] at hx
    by_cases hq : q = r
    · rw [if_pos hq] at hx
      cases hx
      exact nextSequence_range s
    · rw [if_neg hq] at hx
      exact hrange q x hx

/-- A resend keeps its record's sequence. -/
theorem SequencesOk.resend {r : Source} {x : NoticeRecord} (h : SequencesOk s) (hx : (s.source r).record = some x) :
    SequencesOk (s.resendNotice r x) := by
  obtain ⟨hdistinct, hrange⟩ := h
  unfold State.resendNotice State.offerNotice
  refine SequencesOk.own ?_ _ _
  have hold : ∀ (v : NoticeSource) (y : NoticeRecord), v.record = some y → y.sequence = x.sequence → ∀ q z,
      ((s.setSource r v).source q).record = some z → ∃ w, (s.source q).record = some w ∧ w.sequence = z.sequence := by
    intro v y hv hy q z hz
    have hget : (s.setSource r v).source q = if q = r then v else s.source q := source_get_set _ _ _ _
    rw [hget] at hz
    by_cases hq : q = r
    · rw [if_pos hq, hv] at hz
      cases hz
      exact ⟨x, hq ▸ hx, hy.symm⟩
    · rw [if_neg hq] at hz
      exact ⟨z, hz, rfl⟩
  have hkept := hold
    { s.source r with
      record := some { x with attempt := x.attempt + 1 }, resendDue := false, timer := some (intervalMs s) } _ rfl rfl
  constructor
  · intro q q' y z hy hz hyz
    obtain ⟨y', hy', ey⟩ := hkept q y hy
    obtain ⟨z', hz', ez⟩ := hkept q' z hz
    exact hdistinct q q' y' z' hy' hz' (by rw [ey, ez, hyz])
  · intro q y hy
    obtain ⟨y', hy', ey⟩ := hkept q y hy
    rw [← ey]
    exact hrange q y' hy'

theorem SequencesOk.sendOf {r : Source} (h : SequencesOk s) (e : sendOf s r = some t) : SequencesOk t := by
  unfold Machine.sendOf at e
  split at e
  · split at e
    · next x hx =>
      cases e
      exact h.resend hx
    · cases e
  · split at e
    · cases e
      exact h.firstSend r
    · cases e

theorem SequencesOk.serve (l : List Source) (h : SequencesOk s) : SequencesOk (s.serve l) := by
  induction l generalizing s with
  | nil => exact h
  | cons r rest ih =>
    unfold State.serve
    split
    · exact ih h
    · next u hu =>
      split
      · unfold State.deferService
        split <;> exact h
      · exact ih (h.sendOf hu)

theorem SequencesOk.takeService (h : SequencesOk s) : SequencesOk s.takeService := by
  rcases takeService_cases s with e | e | e <;> rw [e]
  · exact h
  · exact h
  · exact SequencesOk.serve (s := { s with notices := _ }) _ h

theorem SequencesOk.finishTransmission {n : Nat} (h : SequencesOk s) : SequencesOk (s.finishTransmission p n) := by
  have hended : SequencesOk (s.endTransmission p n) := SequencesOk.ports.toKeptByEgress.endTransmission h
  have hchosen : ∀ k, SequencesOk { s.endTransmission p n with choices := k } := fun _ => hended
  rcases finishTransmission_cases s p n with e | e | e <;> rw [e]
  · exact SequencesOk.ports.toKeptByEgress.select hended
  · exact SequencesOk.ports.toKeptByEgress.select (hchosen _)
  · exact SequencesOk.ports.toKeptByEgress.select (hchosen _).takeService

/-! ## Commands and events -/

theorem SequencesOk.settleReady (h : SequencesOk s) : SequencesOk s.settleReady := by
  rw [settleReady_eq]
  exact h

/-- A source settled has no record (R192, R193). -/
theorem SequencesOk.settled (h : SequencesOk s) (r : Source) : SequencesOk (s.setSource r (s.source r).settled) :=
  h.of_kept (.set (.inr rfl))

theorem withEnableSet_record (x : PerSource NoticeSource) (set : Byte) (q : Source) :
    ((withEnableSet x set).get q).record = (x.get q).record := by cases q <;> rfl

theorem SequencesOk.applyNotice (h : SequencesOk s) (target : Word) (port : Port) (set : Byte) (interval : Nat) :
    SequencesOk (applyNotice s target port set interval) := by
  unfold Machine.applyNotice
  refine SequencesOk.settleReady (h.of_kept (fun q => ?_))
  simp only [withEnableSet_record]
  split
  · rw [PerSource.get_map]
    exact .inr rfl
  · exact .inl rfl

theorem SequencesOk.restartTraffic (h : SequencesOk s) : SequencesOk s.restartTraffic := by
  have hstopped := SequencesOk.ports.stopAll h
  unfold State.restartTraffic
  generalize s.stopAll = u at hstopped
  refine hstopped.of_kept (fun q => .inr ?_)
  show ((PerSource.map NoticeSource.restartTraffic _).get q).record = none
  rw [PerSource.get_map]
  rfl

theorem SequencesOk.command {r : Request} (h : SequencesOk s) (he : CommandEffect r s t) : SequencesOk t := by
  cases he
  case setPort p payload mode _ => exact SequencesOk.ports.applyMode (SequencesOk.ports.setPort _ _ _ h)
  case setNotice => exact h.applyNotice _ _ _ _
  case ack q => exact SequencesOk.settleReady (h.settled q)
  case traffic => exact h.restartTraffic
  all_goals exact h

theorem SequencesOk.completeRequest {r : Request} {f : Frame} {restart : Bool} {a : Answer} (h : SequencesOk a.state) :
    SequencesOk (completeRequest r f restart a) := by
  have hplaced : SequencesOk ((restartClaimTimer r.source a.state).placeOwn r.port (buildReply r f a)).2 := by
    refine SequencesOk.own ?_ _ _
    rw [restartClaimTimer_eq]
    exact h
  have hmarked : ∀ (pl : Placed) (u : State), SequencesOk u → SequencesOk (if restart then markRestartReply pl u else u) := by
    intro pl u hu
    split
    · unfold markRestartReply
      split <;> exact hu
    · exact hu
  rw [completeRequest_eq]
  unfold endExecution offeredReply
  rw [takeRequest_only]
  refine SequencesOk.ports.release _ _ (hmarked _ _ ?_)
  rw [countReplyLost_eq]
  exact hplaced

theorem fresh_sequencesOk (h : s.notices = .fresh) : SequencesOk s := by
  have hnone : ∀ q, (s.source q).record = none := by
    intro q
    unfold State.source
    rw [h]
    cases q <;> rfl
  exact ⟨fun q _ _ _ hx => (nomatch (hnone q).symm.trans hx), fun q _ hx => (nomatch (hnone q).symm.trans hx)⟩

theorem SequencesOk.event (h : SequencesOk s) (he : EventEffect s t) : SequencesOk t := by
  cases he
  case request r f a _ ha => exact SequencesOk.completeRequest (h.command ha)
  case restartFull r f a _ ha => exact SequencesOk.completeRequest (by rw [ha]; exact h)
  case resetLow => exact fresh_sequencesOk rfl
  case restartPoint => exact fresh_sequencesOk rfl
  case startMark => exact SequencesOk.ports.receiveEnding h
  case endOfFrame => exact SequencesOk.ports.receiveEnding (SequencesOk.ports.setPort _ _ _ h)
  case classified p n rest x _ _ _ =>
    exact SequencesOk.ports.release _ _ ((SequencesOk.classifier n).classify (s := s.setAwaiting p rest) h)
  case transmitted => exact h.finishTransmission
  case claimExpired => exact SequencesOk.raise (s := s.setClaim none) h _ _
  case syncExpired => exact (h.raise .syncLost 0).of_notices (by rw [(loseSync_only s 0).1])
  case resendDue r x _ hx => exact h.of_kept (.set (.inl rfl))
  case givenUp r x _ hx => exact h.settled r
  case served => exact h.takeService
  case millisecond hlow =>
    refine h.of_kept (fun q => .inl ?_)
    unfold State.millisecond
    rw [if_neg (by simp [hlow])]
    simp only [PerSource.get_map]
  all_goals exact h

/-- Settles O58, over every event's effect. -/
theorem stepKeepsTheAgentAndSequences : Obligations.StepKeepsTheAgentAndSequences := by
  unfold Obligations.StepKeepsTheAgentAndSequences
  intro s t hdepths hkeys haddress hsequences hstep
  obtain ⟨rest, heffect⟩ := step_effect hstep
  have hagent : AgentOk ({ s with pending := rest } : State).agent := agentOk_iff.mpr ⟨hdepths, hkeys, haddress⟩
  have hsent : SequencesOk { s with pending := rest } := hsequences
  obtain ⟨hdepths', hkeys', haddress'⟩ := agentOk_iff.mp (hagent.event heffect)
  exact ⟨hdepths', hkeys', haddress', hsent.event heffect⟩

end Sys2Proof.Safety
end

section
/-! SUPPORT. Slots and their holders (R91): every operation moves references between the egresses, the Agent, the frames that
await classification, and what an event has in hand; the counts follow. -/

namespace Sys2Proof.Safety

open Sys2Proof.Machine

variable {s t : State} {p q : Port} {n : Nat} {l l' : List Nat}

theorem refCount_some {x : Slot} (h : s.slot n = some x) : refCount s n = x.refs := by
  unfold refCount
  rw [h]

theorem refCount_none (h : s.slot n = none) : refCount s n = 0 := by
  unfold refCount
  rw [h]

/-! ## Holders -/

/-- How often an egress refers to slot `n`. -/
def egressHolds (e : Egress) (n : Nat) : Nat := (queuedSlots e).count n + e.transmitter.toList.count n

theorem egressRefs_eq (s : State) (p : Port) (n : Nat) : egressRefs s p n = egressHolds (s.port p).egress n := rfl

theorem holders_setPort (s : State) (p : Port) (u : PortUnit) (n : Nat) :
    holders (s.setPort p u) n + egressHolds (s.port p).egress n = holders s n + egressHolds u.egress n := by
  unfold holders portHolds
  simp only [egressRefs_eq]
  cases p <;> simp only [State.setPort, State.port, PerPort.set, PerPort.get] <;> omega

/-- The parts of the state that hold references, and the slots, are the same; the device is or is not in a reset alike. -/
structure SameHoldings (s t : State) : Prop where
  slots : t.store.slots = s.store.slots
  awaiting : t.store.awaiting = s.store.awaiting
  egress : ∀ q, (t.port q).egress = (s.port q).egress
  queue : t.agent.queue = s.agent.queue
  executing : t.agent.executing = s.agent.executing
  held : t.device.resetHeld = s.device.resetHeld
  sweeping : t.device.sweeping = s.device.sweeping

theorem SameHoldings.refl (s : State) : SameHoldings s s := ⟨rfl, rfl, fun _ => rfl, rfl, rfl, rfl, rfl⟩

theorem SameHoldings.trans {u : State} (h : SameHoldings s t) (g : SameHoldings t u) : SameHoldings s u :=
  ⟨g.slots.trans h.slots, g.awaiting.trans h.awaiting, fun q => (g.egress q).trans (h.egress q), g.queue.trans h.queue,
    g.executing.trans h.executing, g.held.trans h.held, g.sweeping.trans h.sweeping⟩

theorem SameHoldings.holders (h : SameHoldings s t) (n : Nat) : holders t n = holders s n := by
  unfold Safety.holders portHolds
  simp only [egressRefs_eq, h.awaiting, h.egress, h.queue, h.executing]

theorem SameHoldings.setPort {u : PortUnit} (h : u.egress = (s.port p).egress) : SameHoldings s (s.setPort p u) := by
  refine ⟨rfl, rfl, fun q => ?_, rfl, rfl, rfl, rfl⟩
  by_cases hq : q = p
  · subst hq
    rw [State.port_setPort_self]
    exact h
  · rw [s.port_setPort_other hq]

theorem SameHoldings.of_map {f : PortUnit → PortUnit} (hf : ∀ v, (f v).egress = v.egress)
    (hp : t.ports = s.ports.map f) (hslots : t.store.slots = s.store.slots) (hawaiting : t.store.awaiting = s.store.awaiting)
    (hqueue : t.agent.queue = s.agent.queue) (hexecuting : t.agent.executing = s.agent.executing)
    (hdevice : t.device = s.device) : SameHoldings s t := by
  refine ⟨hslots, hawaiting, fun q => ?_, hqueue, hexecuting, by rw [hdevice], by rw [hdevice]⟩
  unfold State.port
  rw [hp, PerPort.get_map]
  exact hf _

/-- Outside a reset: each slot's count is the number of its holders and of the references that the event has in hand, which
`l` lists; and a held slot is referred to. -/
structure Balanced (l : List Nat) (s : State) : Prop where
  rise : rising s.store.slots = true
  awake : s.device.resetHeld = false ∧ s.device.sweeping = false
  refs : ∀ n, refCount s n = holders s n + l.count n
  held : ∀ n x, s.slot n = some x → 1 ≤ x.refs

theorem Balanced.refsOk (h : Balanced [] s) : RefsOk s := by
  unfold RefsOk
  rw [h.awake.1, h.awake.2, if_neg (by simp)]
  exact fun n => ⟨by simpa using h.refs n, h.held n⟩

/-- Slots as they were, and the references moved between the holders and what the event has in hand. -/
theorem Balanced.move (h : Balanced l s) (hslots : t.store.slots = s.store.slots)
    (hawake : t.device.resetHeld = s.device.resetHeld ∧ t.device.sweeping = s.device.sweeping)
    (hm : ∀ n, holders t n + l'.count n = holders s n + l.count n) : Balanced l' t := by
  have hslot : t.slot = s.slot := by unfold State.slot; rw [hslots]
  refine ⟨by rw [hslots]; exact h.rise, by rw [hawake.1, hawake.2]; exact h.awake, fun n => ?_, by rw [hslot]; exact h.held⟩
  have hcount : refCount t n = refCount s n := by unfold refCount; rw [hslot]
  rw [hcount, h.refs, hm]

theorem Balanced.same (h : Balanced l s) (hs : SameHoldings s t) : Balanced l t :=
  h.move hs.slots ⟨hs.held, hs.sweeping⟩ (fun n => by rw [hs.holders])

theorem Balanced.setPort {u : PortUnit} (h : Balanced l s) (hu : u.egress = (s.port p).egress) : Balanced l (s.setPort p u) :=
  h.same (.setPort hu)

/-- An egress gives references to the event, or takes them. -/
theorem Balanced.setEgress {e : Egress} (h : Balanced l s)
    (he : ∀ n, egressHolds e n + l'.count n = egressHolds (s.port p).egress n + l.count n) :
    Balanced l' (s.setEgress p e) := by
  refine h.move rfl ⟨rfl, rfl⟩ (fun n => ?_)
  have hset : holders (s.setEgress p e) n + egressHolds (s.port p).egress n = holders s n + egressHolds e n :=
    holders_setPort s p _ n
  have hn := he n
  omega

/-- A reference in hand is to a held slot. -/
theorem Balanced.slot_some (h : Balanced l s) (hn : n ∈ l) : ∃ x, s.slot n = some x := by
  cases hx : s.slot n with
  | some x => exact ⟨x, rfl⟩
  | none =>
    have hcount := h.refs n
    rw [refCount_none hx] at hcount
    have := List.one_le_count_iff.mpr hn
    omega

theorem holders_of_store (hawait : t.store.awaiting = s.store.awaiting) (hports : t.ports = s.ports)
    (hagent : t.agent = s.agent) (n : Nat) : holders t n = holders s n := by
  unfold holders portHolds egressRefs State.port
  rw [hawait, hports, hagent]

/-- A reference in hand is given up (R96). -/
theorem Balanced.release (h : Balanced (n :: l) s) : Balanced l (s.releaseRef n) := by
  obtain ⟨x, hx⟩ := h.slot_some (n := n) List.mem_cons_self
  have honly := releaseRef_only s .t n
  have hholders : ∀ m, holders (s.releaseRef n) m = holders s m :=
    holders_of_store honly.awaiting (releaseRef_ports s n) honly.agent
  have hdevice : (s.releaseRef n).device = s.device := by
    rcases releaseRef_cases s n with ⟨_, e⟩ | ⟨y, _, _, e⟩ | ⟨y, _, _, e⟩ <;> rw [e]
    rfl
  have hrise : rising (s.releaseRef n).store.slots = true := by
    rcases releaseRef_cases s n with ⟨_, e⟩ | ⟨y, _, _, e⟩ | ⟨y, _, _, e⟩ <;> rw [e]
    · exact h.rise
    · exact rising_remove h.rise
    · exact rising_put h.rise
  refine ⟨hrise, by rw [hdevice]; exact h.awake, fun m => ?_, fun m y hy => ?_⟩
  · have hm := h.refs m
    rw [hholders]
    unfold refCount at *
    rw [releaseRef_slot h.rise]
    rw [List.count_cons] at hm
    by_cases hmn : m = n
    · subst hmn
      rw [hx] at hm ⊢
      simp only [beq_self_eq_true, if_true, ne_eq, not_true, if_false] at hm ⊢
      by_cases h1 : x.refs ≤ 1
      · rw [if_pos h1]
        simp only
        omega
      · rw [if_neg h1]
        simp only
        omega
    · have hnm : (n == m) = false := by simpa using Ne.symm hmn
      rw [hnm] at hm
      cases hslot : s.slot m with
      | none =>
        rw [hslot] at hm
        simpa using hm
      | some z =>
        rw [hslot] at hm
        simpa [hmn] using hm
  · rw [releaseRef_slot h.rise] at hy
    cases hslot : s.slot m with
    | none =>
      rw [hslot] at hy
      cases hy
    | some z =>
      have hz := h.held m z hslot
      rw [hslot] at hy
      simp only at hy
      split at hy
      · cases hy
        exact hz
      · split at hy
        · cases hy
        · cases hy
          show 1 ≤ z.refs - 1
          omega

/-- The counts after one slot has been written. -/
theorem Balanced.put {x : Slot} (h : Balanced l s) (hx : x.refs = refCount s n + 1)
    (hslots : t.store.slots = put n x s.store.slots) (hdevice : t.device = s.device)
    (hholders : ∀ m, holders t m = holders s m) : Balanced (n :: l) t := by
  have hslot : ∀ m, t.slot m = if m = n then some x else s.slot m := by
    intro m
    unfold State.slot
    rw [hslots]
    split
    · next hm => rw [hm, lookup_put_self]
    · next hm => exact lookup_put_other hm _ _
  refine ⟨by rw [hslots]; exact rising_put h.rise, by rw [hdevice]; exact h.awake, fun m => ?_, fun m y hy => ?_⟩
  · have hm := h.refs m
    rw [hholders, List.count_cons]
    unfold refCount at *
    rw [hslot]
    by_cases hmn : m = n
    · subst hmn
      simp only [if_true, beq_self_eq_true]
      omega
    · have hnm : (n == m) = false := by simpa using Ne.symm hmn
      rw [if_neg hmn, hnm]
      simpa using hm
  · rw [hslot] at hy
    split at hy
    · cases hy
      omega
    · exact h.held m y hy

theorem Balanced.addRef (h : Balanced l s) (hn : n ∈ l) : Balanced (n :: l) (s.addRef n) := by
  obtain ⟨x, hx⟩ := h.slot_some hn
  have hadd : s.addRef n = s.setSlots (Machine.put n { x with refs := x.refs + 1 } s.store.slots) := by
    unfold State.addRef
    rw [hx]
  rw [hadd]
  exact h.put (x := { x with refs := x.refs + 1 }) (by rw [refCount_some hx]) rfl rfl (fun _ => rfl)

/-- A free slot that is filled with one reference. -/
theorem Balanced.fill (h : Balanced l s) (hn : s.slot n = none) (f : Frame) (o : Origin) :
    Balanced (n :: l) (s.fillSlot n f o 1) :=
  h.put (x := ⟨f, o, s.store.clock, 1⟩) (by rw [refCount_none hn]) rfl rfl (fun _ => rfl)

/-- The content of a slot changes, and no count. -/
theorem Balanced.rewriteSlot (h : Balanced l s) (f : Frame) : Balanced l (s.rewriteSlot n f) := by
  rcases rewriteSlot_cases s n f with ⟨_, e⟩ | ⟨x, hx, e⟩ <;> rw [e]
  · exact h
  · have hslot : ∀ m, (s.setSlots (Machine.put n { x with frame := f } s.store.slots)).slot m =
        if m = n then some { x with frame := f } else s.slot m := by
      intro m
      unfold State.slot
      split
      · next hm => rw [hm]; exact lookup_put_self _ _ _
      · next hm => exact lookup_put_other hm _ _
    refine ⟨rising_put h.rise, h.awake, fun m => ?_, fun m y hy => ?_⟩
    · refine Eq.trans ?_ (h.refs m)
      by_cases hm : m = n
      · rw [refCount_some ((hslot m).trans (if_pos hm)), hm, refCount_some hx]
      · unfold refCount
        rw [hslot, if_neg hm]
    · rw [hslot] at hy
      split at hy
      · cases hy
        exact h.held n x hx
      · exact h.held m y hy

/-! ## Egresses -/

theorem Balanced.count (h : Balanced l s) (p : Port) (c : Counter) : Balanced l (s.count p c) := h.setPort rfl

theorem Balanced.reportEnd (h : Balanced l s) (m : Nat) : Balanced l (s.reportEnd m) := by
  rcases reportEnd_cases s m with ⟨_, e⟩ | ⟨_, e⟩ <;> rw [e]
  · exact h.same ⟨rfl, rfl, fun _ => rfl, rfl, rfl, rfl, rfl⟩
  · exact h

/-- The head that leaves an egress is the reference it gives up. -/
theorem egressHolds_takeHead {e e' : Egress} {c : BitVec 2} (hh : e.head = some (c, n, e')) (sent : Bool) (m : Nat) :
    egressHolds (e'.takeHead c sent) m + [n].count m = egressHolds e m := by
  have hround : egressHolds e' m = egressHolds e m := by
    rcases Egress.head_cases hh with ⟨_, _, _, rfl⟩ | ⟨_, rfl, _⟩ <;> rfl
  obtain ⟨⟨rest, hq⟩, -, -⟩ := head_queue hh
  have hqueued : (queuedSlots (e'.takeHead c sent)).count m + [n].count m = (queuedSlots e').count m := by
    unfold queuedSlots
    rcases cls_cases c with rfl | rfl | rfl | rfl
    · have hq3 : e'.q3 = n :: rest := hq
      simp only [takeHead_three, hq3, List.drop_one, List.tail_cons, List.count_append, List.count_cons, List.count_nil]
      omega
    · have hq2 : e'.q2 = n :: rest := hq
      rw [takeHead_member e' (by decide), hq]
      simp only [setQueue_two, hq2, List.drop_one, List.tail_cons, List.count_append, List.count_cons, List.count_nil]
      omega
    · have hq1 : e'.q1 = n :: rest := hq
      rw [takeHead_member e' (by decide), hq]
      simp only [setQueue_one, hq1, List.drop_one, List.tail_cons, List.count_append, List.count_cons, List.count_nil]
      omega
    · have hq0 : e'.q0 = n :: rest := hq
      rw [takeHead_member e' (by decide), hq]
      simp only [setQueue_zero, hq0, List.drop_one, List.tail_cons, List.count_append, List.count_cons, List.count_nil]
      omega
  rw [← hround]
  unfold egressHolds
  rw [takeHead_transmitter]
  omega

theorem Balanced.selectLoop (fuel : Nat) (h : Balanced l s) (ht : (s.port p).egress.transmitter = none) :
    Balanced l (s.selectLoop fuel p) := by
  induction fuel generalizing s with
  | zero => exact h
  | succ fuel ih =>
    unfold State.selectLoop
    split
    · exact h
    · next c n e hhead =>
      have hidle : e.transmitter = none := by rw [(head_queue hhead).2.2, ht]
      split
      · refine ih ?_ (by rw [discardStale_egress, takeHead_transmitter, hidle])
        unfold State.discardStale
        refine ((Balanced.count (l := n :: l) (h.setEgress (fun m => ?_)) p .txStale).reportEnd n).release
        have := egressHolds_takeHead hhead false m
        simp only [List.count_cons, List.count_nil] at this ⊢
        omega
      · unfold State.startTransmission
        refine h.setEgress (fun m => ?_)
        have hmoved := egressHolds_takeHead hhead true m
        have hnone : (e.takeHead c true).transmitter = none := by rw [takeHead_transmitter, hidle]
        unfold egressHolds at *
        rw [hnone] at hmoved
        simp only [Option.toList_none, Option.toList_some, List.count_nil] at *
        have hqueued : queuedSlots { e.takeHead c true with transmitter := some n, line := .startMark } =
          queuedSlots (e.takeHead c true) := rfl
        rw [hqueued]
        omega

theorem Balanced.select (h : Balanced l s) (p : Port) : Balanced l (s.select p) := by
  unfold State.select
  split
  · next hc => exact h.selectLoop _ hc.2
  · exact h

theorem addRef_setEgress (s : State) (p : Port) (e : Egress) (n : Nat) :
    (s.setEgress p e).addRef n = (s.addRef n).setEgress p e := by
  cases hx : s.slot n with
  | none =>
    have hset : (s.setEgress p e).slot n = none := hx
    unfold State.addRef
    rw [hset, hx]
  | some x =>
    have hset : (s.setEgress p e).slot n = some x := hx
    unfold State.addRef
    rw [hset, hx]
    rfl

theorem egressHolds_append (e : Egress) (c : BitVec 2) (n m : Nat) :
    egressHolds (e.setQueue c (e.queue c ++ [n])) m = egressHolds e m + [n].count m := by
  unfold egressHolds queuedSlots
  rcases cls_cases c with rfl | rfl | rfl | rfl
  · have hq : e.queue 3 = e.q3 := rfl
    simp only [setQueue_three, hq, List.count_append]
    omega
  · have hq : e.queue 2 = e.q2 := rfl
    simp only [setQueue_two, hq, List.count_append]
    omega
  · have hq : e.queue 1 = e.q1 := rfl
    simp only [setQueue_one, hq, List.count_append]
    omega
  · have hq : e.queue 0 = e.q0 := rfl
    simp only [setQueue_zero, hq, List.count_append]
    omega

/-- A reference in hand joins a class queue (R98). -/
theorem Balanced.join (h : Balanced (n :: l) s) (p : Port) (c : BitVec 2) :
    Balanced l ((s.setEgress p ((s.port p).egress.setQueue c ((s.port p).egress.queue c ++ [n]))).select p) := by
  refine Balanced.select (h.setEgress (fun m => ?_)) p
  rw [egressHolds_append]
  simp only [List.count_cons, List.count_nil]
  omega

theorem Balanced.enqueue (h : Balanced l s) (hn : n ∈ l) (p : Port) (c : BitVec 2) : Balanced l (s.enqueue p c n) := by
  have hjoined := (h.addRef hn).join p c
  unfold State.enqueue
  simp only
  rw [addRef_port] at hjoined
  rw [addRef_setEgress]
  exact hjoined

theorem Balanced.place (h : Balanced l s) (hn : n ∈ l) (p : Port) (c : BitVec 2) : Balanced l (s.place p c n) := by
  unfold State.place
  split
  · exact h.count p .txQFull
  · exact h.enqueue hn p c

theorem fillSlot_addRef (s : State) (n : Nat) (f : Frame) (o : Origin) : (s.fillSlot n f o 0).addRef n = s.fillSlot n f o 1 := by
  have hx : (s.fillSlot n f o 0).slot n = some ⟨f, o, s.store.clock, 0⟩ := lookup_put_self _ _ _
  unfold State.addRef
  rw [hx]
  unfold State.fillSlot State.setSlots
  simp only [put_put]

/-- The part's own frame takes a slot and joins class queue 3, or is lost (R94). -/
theorem Balanced.placeOwn (h : Balanced l s) (p : Port) (f : Frame) : Balanced l (s.placeOwn p f).2 := by
  rcases placeOwn_cases s p f with ⟨_, ho⟩ | ⟨n, hn, hi, ho⟩ | ⟨n, hn, hi, hq, ho⟩ | ⟨n, hn, hi, hq, ho⟩ <;> rw [ho]
  · exact h
  · exact h
  · exact h.count p .txQFull
  · have hjoined := (h.fill (lowestFreeSlot_free hn).2 f .agent).join p 3
    unfold State.enqueue
    simp only
    rw [addRef_setEgress, fillSlot_addRef]
    exact hjoined

theorem Balanced.releaseAll (m : List Nat) (h : Balanced (m ++ l) s) : Balanced l (State.releaseAll m s) := by
  induction m generalizing s with
  | nil => exact h
  | cons n rest ih => exact ih (h.reportEnd n).release

/-- The references of a stopped egress are given up (R109). -/
theorem Balanced.stopEgress (h : Balanced l s) (p : Port) : Balanced l (s.stopEgress p) := by
  have haborted : Balanced l (s.abortTransmission p) := by
    unfold State.abortTransmission
    simp only
    split
    · exact h
    · next n hn =>
      refine ((Balanced.count (l := n :: l) (h.setEgress (fun m => ?_)) p .txAbort).reportEnd n).release
      unfold egressHolds queuedSlots
      rw [hn]
      simp only [Option.toList_none, Option.toList_some, List.count_cons, List.count_nil]
      omega
  unfold State.stopEgress
  simp only
  refine Balanced.releaseAll _ (haborted.setEgress (fun m => ?_))
  unfold egressHolds queuedSlots
  simp only [List.count_append, List.count_nil]
  omega

theorem Balanced.stopAll (h : Balanced l s) : Balanced l s.stopAll :=
  ((((h.stopEgress .t).stopEgress .b1).stopEgress .b2).stopEgress .b3).stopEgress .b4

end Sys2Proof.Safety
end

section
/-! SUPPORT. The holders of every slot through the events: ports, classifier, executions, notices; and a reset, from whose
start to the end of the sweep there is none (R113, log entry 19). -/

namespace Sys2Proof.Safety

open Sys2Proof.Machine

variable {s t : State} {p q : Port} {n : Nat} {l : List Nat}

/-! ## Ports -/

theorem trunkLeavesActive_holdings (s : State) : SameHoldings s s.trunkLeavesActive := by
  rcases trunkLeavesActive_cases s with ⟨_, e⟩ | ⟨_, e⟩ <;> rw [e]
  · rw [(loseSync_only s 1).1]
    exact ⟨rfl, rfl, fun _ => rfl, rfl, rfl, rfl, rfl⟩
  · exact ⟨rfl, rfl, fun _ => rfl, rfl, rfl, rfl, rfl⟩

theorem Balanced.leaveService (h : Balanced l s) (new : PortState) : Balanced l (s.leaveService p new) := by
  have hleft : Balanced l (((s.stopEgress p).setPort p
      { (s.stopEgress p).port p with state := new, receiver := .idle, errorCount := 0 }).setEntries
        (removeLearnedOn p (s.stopEgress p).stations.entries)) := by
    have hset := (h.stopEgress p).setPort (p := p)
      (u := { (s.stopEgress p).port p with state := new, receiver := .idle, errorCount := 0 }) rfl
    exact hset.same ⟨rfl, rfl, fun _ => rfl, rfl, rfl, rfl, rfl⟩
  unfold State.leaveService
  simp only
  split
  · exact hleft.same (trunkLeavesActive_holdings _)
  · exact hleft

theorem Balanced.applyMode (h : Balanced l s) (mode : Mode) : Balanced l (s.applyMode p mode) := by
  unfold State.applyMode
  simp only
  split
  · exact h.setPort rfl
  split
  · split
    · exact h.setPort rfl
    · refine Balanced.leaveService ?_ _
      exact h.setPort rfl
  split
  · refine Balanced.same ?_ (trunkLeavesActive_holdings _)
    exact h.setPort rfl
  · exact h.setPort rfl

theorem raise_holdings (s : State) (r : Source) (d : Word) : SameHoldings s (s.raise r d) :=
  ⟨rfl, rfl, fun _ => rfl, rfl, rfl, rfl, rfl⟩

theorem Balanced.countError (h : Balanced l s) (c : Counter) : Balanced l (s.countError p c) := by
  have hcounted : ∀ k, Balanced l ((s.count p c).setPort p { (s.count p c).port p with errorCount := k }) :=
    fun k => (h.count p c).setPort rfl
  unfold State.countError State.block
  simp only
  split
  · refine Balanced.same ?_ (raise_holdings _ _ _)
    refine Balanced.setPort ?_ rfl
    exact (hcounted _).leaveService .blocked
  · exact hcounted _

/-- A good frame's slot has the classification as its one holder (R91, R92). -/
theorem Balanced.claimSlot (h : Balanced l s) (f : Frame) : Balanced l (s.claimSlot p f) := by
  rcases claimSlot_cases s p f with ⟨-, e⟩ | ⟨-, -, e⟩ | ⟨-, n, hn, e⟩ <;> rw [e]
  · exact h.count p .rxQuota
  · exact (h.count p .rxNoSlot).same (raise_holdings _ _ _)
  · refine (h.fill (lowestFreeSlot_free hn).2 f (.port p)).move rfl ⟨rfl, rfl⟩ (fun m => ?_)
    unfold holders portHolds egressRefs State.port
    simp only [List.count_cons]
    cases p <;> simp only [PerPort.set, PerPort.get, List.count_append, List.count_cons, List.count_nil] <;> 
      simp only [State.fillSlot, State.setSlots] <;> omega

theorem Balanced.judgeReception (h : Balanced l s) {stored : List Byte} {k : Nat} {cutOff : Bool} :
    Balanced l (s.judgeReception p stored k cutOff) := by
  unfold State.judgeReception
  split
  · split
    · exact h.count p .rxAbort
    · split
      · exact h.countError _
      · exact (h.count p .rxGood).claimSlot _
  · exact h.same ⟨rfl, rfl, fun _ => rfl, rfl, rfl, rfl, rfl⟩

theorem Balanced.receiveEnding {ending : Ending} (h : Balanced l s) : Balanced l (s.receiveEnding p ending) := by
  have hended : ∀ v, Balanced l v → Balanced l (if ending = .startMark then v.setReceiver p (.receiving [] 0) else v) := by
    intro v hv
    split
    · exact hv.setPort rfl
    · exact hv
  unfold State.receiveEnding
  simp only
  apply hended
  split
  · exact h
  · refine Balanced.judgeReception ?_
    exact h.setPort rfl

/-! ## The Agent -/

/-- The head of the request queue and its reference move into the execution position (R144). -/
theorem Balanced.takeRequest (h : Balanced l s) : Balanced l s.takeRequest := by
  unfold State.takeRequest
  split
  · next hc =>
    split
    · exact h
    · next r rest hq =>
      refine h.move rfl ⟨rfl, rfl⟩ (fun m => ?_)
      unfold holders
      simp only [hq, hc.1, portHolds, egressRefs, State.port, List.map_cons, List.count_cons, Option.toList_none,
        Option.toList_some, List.map_nil, List.count_nil]
      omega
  · exact h

theorem addRef_agent (s : State) (a : Agent) (n : Nat) :
    ({ s with agent := a } : State).addRef n = { s.addRef n with agent := a } := by
  cases hx : s.slot n with
  | none =>
    have hset : ({ s with agent := a } : State).slot n = none := hx
    unfold State.addRef
    rw [hset, hx]
  | some x =>
    have hset : ({ s with agent := a } : State).slot n = some x := hx
    unfold State.addRef
    rw [hset, hx]
    rfl

/-- A captured request holds its slot (R91, R140). -/
theorem Balanced.capture (h : Balanced l s) {r : Request} (hn : r.slot ∈ l) : Balanced l (s.capture r) := by
  unfold State.capture
  apply Balanced.takeRequest
  rw [addRef_agent]
  have hagent := (addRef_only s .t r.slot).agent
  refine (h.addRef hn).move rfl ⟨rfl, rfl⟩ (fun m => ?_)
  unfold holders
  simp only [hagent, portHolds, egressRefs, State.port, List.map_append, List.map_cons, List.map_nil, List.count_append,
    List.count_cons, List.count_nil]
  omega

/-! ## The classifier -/

/-- Through a classification the event has the frame's own reference in hand (R28). -/
theorem Balanced.classifier (n : Nat) : KeptByClassifier n (Balanced [n]) where
  place := fun _ q c _ h => h.place (by simp) q c
  own := fun _ p f h => h.placeOwn p f
  count := fun _ p c h => h.count p c
  agent := fun _ _ hq he _ _ h => h.same ⟨rfl, rfl, fun _ => rfl, hq, he, rfl, rfl⟩
  capture := fun _ source id p _ _ _ h => h.capture (r := ⟨source, id, p, n⟩) (by simp)
  rewrite := fun _ f h => h.rewriteSlot f
  raise := fun _ _ _ h => h.same (raise_holdings _ _ _)
  trunkSync := fun s _ h => h.same (by rw [(trunkSync_only s).1]; exact ⟨rfl, rfl, fun _ => rfl, rfl, rfl, rfl, rfl⟩)
  learn := fun s a p h => h.same (by rw [learn_only]; exact ⟨rfl, rfl, fun _ => rfl, rfl, rfl, rfl, rfl⟩)
  countHit := fun s d h => h.same (by rw [countHit_only]; exact ⟨rfl, rfl, fun _ => rfl, rfl, rfl, rfl, rfl⟩)
  consult := fun s k c h => h.same (by rw [consult_only]; exact ⟨rfl, rfl, fun _ => rfl, rfl, rfl, rfl, rfl⟩)

/-- The frame at the front of a port's awaiting ones gives the event its reference. -/
theorem Balanced.setAwaiting (h : Balanced l s) {rest : List Nat} (hw : s.store.awaiting.get p = n :: rest) :
    Balanced (n :: l) (s.setAwaiting p rest) := by
  refine h.move rfl ⟨rfl, rfl⟩ (fun m => ?_)
  unfold holders portHolds egressRefs State.port State.setAwaiting
  cases p <;> simp only [PerPort.set, PerPort.get, List.count_cons] at hw ⊢ <;> rw [hw] <;>
    simp only [List.count_cons] <;> omega

/-! ## Executions and notices -/

theorem Balanced.notices (h : Balanced l s) (a : NoticeUnit) : Balanced l { s with notices := a } :=
  h.same ⟨rfl, rfl, fun _ => rfl, rfl, rfl, rfl, rfl⟩

theorem Balanced.takeService (h : Balanced l s) : Balanced l s.takeService :=
  takeService_keeps (fun _ p f hs => hs.placeOwn p f) (fun _ a hs => hs.notices a) h

theorem releaseRef_agent (s : State) (a : Agent) (n : Nat) :
    ({ s with agent := a } : State).releaseRef n = { s.releaseRef n with agent := a } := by
  have hslot : ({ s with agent := a } : State).slot n = s.slot n := rfl
  unfold State.releaseRef
  rw [hslot]
  split
  · rfl
  · split <;> rfl

/-- The reply takes a slot of its own, and the request's slot gives up the request's reference (R145). -/
theorem Balanced.completeRequest {r : Request} {f : Frame} {restart : Bool} {a : Answer} (h : Balanced l a.state)
    (hr : a.state.agent.executing = some r) : Balanced l (completeRequest r f restart a) := by
  have hclaim : Balanced l (restartClaimTimer r.source a.state) := by
    rw [restartClaimTimer_eq]
    exact h.same ⟨rfl, rfl, fun _ => rfl, rfl, rfl, rfl, rfl⟩
  have hoffered : Balanced l (offeredReply r f restart a) := by
    have hplaced := hclaim.placeOwn r.port (buildReply r f a)
    unfold offeredReply
    simp only
    generalize (restartClaimTimer r.source a.state).placeOwn r.port (buildReply r f a) = out at *
    have hlost : Balanced l (countReplyLost out.1 out.2) := by
      rw [countReplyLost_eq]
      exact hplaced.same ⟨rfl, rfl, fun _ => rfl, rfl, rfl, rfl, rfl⟩
    refine Balanced.same (s := if restart then _ else _) ?_ ⟨rfl, rfl, fun _ => rfl, rfl, rfl, rfl, rfl⟩
    split
    · unfold markRestartReply
      split <;> exact hlost.same ⟨rfl, rfl, fun _ => rfl, rfl, rfl, rfl, rfl⟩
    · exact hlost
  have hexecuting : (offeredReply r f restart a).agent.executing = some r := by
    rw [offeredReply_agent]
    exact hr
  rw [completeRequest_eq]
  unfold endExecution
  simp only
  refine Balanced.takeRequest ?_
  rw [← releaseRef_agent]
  refine Balanced.release (hoffered.move rfl ⟨rfl, rfl⟩ (fun m => ?_))
  rw [(releaseRef_only _ .t r.slot).agent]
  unfold holders
  simp only [hexecuting, portHolds, egressRefs, State.port, Option.toList_none, Option.toList_some, List.map_cons, List.map_nil,
    List.count_cons, List.count_nil]
  omega

theorem Balanced.finishTransmission (h : Balanced l s) (hn : (s.port p).egress.transmitter = some n) :
    Balanced l (s.finishTransmission p n) := by
  have hended : Balanced l (s.endTransmission p n) := by
    unfold State.endTransmission
    simp only
    refine (Balanced.reportEnd (l := n :: l) ((h.count p .txGood).setEgress (fun m => ?_)) n).release
    rw [State.port_count_self]
    unfold egressHolds queuedSlots
    rw [hn]
    simp only [Option.toList_none, Option.toList_some, List.count_cons, List.count_nil]
    omega
  have hchosen : ∀ k, Balanced l { s.endTransmission p n with choices := k } :=
    fun k => hended.same ⟨rfl, rfl, fun _ => rfl, rfl, rfl, rfl, rfl⟩
  rcases finishTransmission_cases s p n with e | e | e <;> rw [e]
  · exact hended.select p
  · exact (hchosen _).select p
  · exact (hchosen _).takeService.select p

/-! ## Commands -/

theorem settleReady_holdings (s : State) : SameHoldings s s.settleReady := by
  rw [settleReady_eq]
  exact ⟨rfl, rfl, fun _ => rfl, rfl, rfl, rfl, rfl⟩

theorem Balanced.restartTraffic (h : Balanced l s) : Balanced l s.restartTraffic := by
  have hstopped := h.stopAll
  unfold State.restartTraffic
  generalize s.stopAll = u at hstopped
  exact hstopped.same (.of_map (f := PortUnit.restartTraffic) (fun _ => rfl) rfl rfl rfl rfl rfl rfl)

theorem Balanced.command {r : Request} (h : Balanced l s) (he : CommandEffect r s t) : Balanced l t := by
  cases he
  case setPort p payload mode _ =>
    refine Balanced.applyMode ?_ mode
    refine h.move rfl ⟨rfl, rfl⟩ (fun m => ?_)
    have hset := holders_setPort s p ((s.port p).withSettings payload) m
    have hsame : egressHolds ((s.port p).withSettings payload).egress m = egressHolds (s.port p).egress m := rfl
    omega
  case clearCounters p => exact h.setPort rfl
  case ack q => exact Balanced.notices (Balanced.same (h.notices _) (settleReady_holdings _)) _
  case setNotice => exact Balanced.notices (Balanced.same (h.notices _) (settleReady_holdings _)) _
  case traffic => exact h.restartTraffic
  all_goals exact h.same ⟨rfl, rfl, fun _ => rfl, rfl, rfl, rfl, rfl⟩

/-! ## From the start of a reset to the end of the sweep -/

/-- From the start of a reset to the end of the sweep nothing refers to a slot, and nothing is done that would (R113, R116,
R199). -/
structure Quiet (s : State) : Prop where
  holders : ∀ n, holders s n = 0
  target : s.notices.target = 0
  records : ∀ q, (s.source q).record = none
  starting : s.device.resetHeld = false → s.device.state = .starting

theorem refsOk_reset (h : s.device.resetHeld = true ∨ s.device.sweeping = true) : RefsOk s ↔ Quiet s := by
  unfold RefsOk
  rw [if_pos h]
  exact ⟨fun ⟨h1, h2, h3, h4⟩ => ⟨h1, h2, h3, h4⟩, fun h => ⟨h.holders, h.target, h.records, h.starting⟩⟩

/-- An event that leaves the holders, the notices in service and the device state as they were. -/
theorem Quiet.refsOk_same (h : Quiet s) (hreset : s.device.resetHeld = true ∨ s.device.sweeping = true) (hs : SameHoldings s t)
    (htarget : t.notices.target = s.notices.target) (hrecords : ∀ q, (t.source q).record = (s.source q).record)
    (hstate : t.device.state = s.device.state) : RefsOk t := by
  refine (refsOk_reset (by rw [hs.held, hs.sweeping]; exact hreset)).mpr ⟨fun n => ?_, ?_, fun q => ?_, fun hr => ?_⟩
  · rw [hs.holders, h.holders]
  · rw [htarget, h.target]
  · rw [hrecords, h.records]
  · rw [hstate]
    exact h.starting (hs.held ▸ hr)

/-- The part with nothing that refers to a slot. -/
theorem holders_eq_zero (hports : ∀ q, queuedSlots (s.port q).egress = [] ∧ (s.port q).egress.transmitter = none)
    (hawaiting : ∀ q, s.store.awaiting.get q = []) (hqueue : s.agent.queue = []) (hexecuting : s.agent.executing = none) (n : Nat) :
    holders s n = 0 := by
  unfold holders portHolds egressRefs
  simp only [(hports _).1, (hports _).2, hawaiting, hqueue, hexecuting, Option.toList_none, List.map_nil, List.count_nil]

theorem startReset_holders (s : State) (count : Nat) (n : Nat) : holders (s.startReset count) n = 0 := by
  refine holders_eq_zero (fun q => ?_) (fun q => by cases q <;> rfl) rfl rfl n
  unfold State.port State.startReset
  simp only [PerPort.get_map]
  exact ⟨rfl, rfl⟩

theorem fresh_records {q : Source} (h : s.notices = .fresh) : (s.source q).record = none := by
  unfold State.source
  rw [h]
  cases q <;> rfl

theorem beginStarting_holders (s : State) (n : Nat) : Safety.holders s.beginStarting n = Safety.holders s n := by
  unfold Safety.holders portHolds egressRefs State.port State.beginStarting
  simp only [PerPort.get_map]

theorem lineIdle_holders (s : State) (n : Nat) :
    Safety.holders { s with ports := s.ports.map (fun u => { u with egress := { u.egress with line := .idleFill } }) } n =
      Safety.holders s n := by
  unfold Safety.holders portHolds egressRefs State.port
  simp only [PerPort.get_map]
  rfl

/-! ## What does not happen without holders -/

theorem holders_of_awaiting {rest : List Nat} (hw : s.store.awaiting.get p = n :: rest) : 1 ≤ holders s n := by
  have hcount : 1 ≤ (s.store.awaiting.get p).count n := by
    rw [hw]
    simp
  unfold holders portHolds
  cases p <;> omega

theorem holders_of_transmitter (ht : (s.port p).egress.transmitter = some n) : 1 ≤ holders s n := by
  have hcount : 1 ≤ egressRefs s p n := by
    unfold egressRefs
    rw [ht]
    simp
  unfold holders portHolds
  cases p <;> omega

/-- With no target and no notice in service there is nothing to send (R186). -/
theorem sendOf_none (htarget : s.notices.target = 0) (hrecords : ∀ q, (s.source q).record = none) (r : Source) :
    sendOf s r = none := by
  have hnot : eligible s r = false := by
    unfold eligible
    rw [htarget]
    rfl
  unfold sendOf
  rw [hrecords, hnot]
  split <;> rfl

theorem serve_nothing (h : ∀ r, sendOf s r = none) (m : List Source) :
    s.serve m = { s with notices := { s.notices with waiting := false } } := by
  induction m with
  | nil => rfl
  | cons r rest ih =>
    unfold State.serve
    rw [h]
    exact ih

/-- Outside RUNNING a frame that ends is counted as a discard, and no slot is touched (R116). -/
theorem receiveEnding_notRunning {ending : Ending} (h : s.device.state ≠ .running) :
    SameHoldings s (s.receiveEnding p ending) ∧ (s.receiveEnding p ending).notices = s.notices ∧
      (s.receiveEnding p ending).device = s.device := by
  have hset : ∀ (u : State) (x : Receiver), SameHoldings u (u.setReceiver p x) := fun u x => .setPort rfl
  have hended : ∀ u : State, SameHoldings s u ∧ u.notices = s.notices ∧ u.device = s.device →
      SameHoldings s (if ending = .startMark then u.setReceiver p (.receiving [] 0) else u) ∧
        (if ending = .startMark then u.setReceiver p (.receiving [] 0) else u).notices = s.notices ∧
        (if ending = .startMark then u.setReceiver p (.receiving [] 0) else u).device = s.device := by
    rintro u ⟨hu, hn, hd⟩
    split
    · exact ⟨hu.trans (hset u _), hn, hd⟩
    · exact ⟨hu, hn, hd⟩
  unfold State.receiveEnding
  simp only
  apply hended
  split
  · exact ⟨.refl s, rfl, rfl⟩
  · unfold State.judgeReception
    rw [if_neg (show (s.setReceiver p .idle).device.state ≠ .running from h)]
    exact ⟨(hset s .idle).trans ⟨rfl, rfl, fun _ => rfl, rfl, rfl, rfl, rfl⟩, rfl, rfl⟩

/-! ## Events -/

theorem raise_record (s : State) (r : Source) (d : Word) (q : Source) : ((s.raise r d).source q).record = (s.source q).record := by
  unfold State.raise State.source
  simp only [source_get_set]
  split
  · next h => rw [h]; rfl
  · rfl

theorem millisecond_holdings (h : s.device.resetHeld = false) : SameHoldings s s.millisecond := by
  unfold State.millisecond
  rw [if_neg (by simp [h])]
  exact .of_map (f := PortUnit.countDown) (fun _ => rfl) rfl rfl rfl rfl rfl rfl

theorem loseSync_holdings (s : State) (detail : Word) : SameHoldings s (s.loseSync detail) := by
  rw [(loseSync_only s detail).1]
  exact ⟨rfl, rfl, fun _ => rfl, rfl, rfl, rfl, rfl⟩

/-- A command leaves the executing request where it is. -/
theorem CommandEffect.executing {r : Request} (he : CommandEffect r s t) : t.agent.executing = s.agent.executing := by
  have hports : KeptByPorts (fun u => u.agent.executing = s.agent.executing) :=
    agent_keptByPorts (Q := fun a => a.executing = s.agent.executing) (fun _ _ h => h)
  cases he
  case setPort p payload mode _ => exact hports.applyMode (hports.setPort _ _ _ rfl)
  case ack => exact congrArg Agent.executing (settleReady_agent _)
  case setNotice => exact congrArg Agent.executing (settleReady_agent _)
  case traffic => rw [restartTraffic_agent]
  all_goals rfl

/-- While RESET_N is low after the start of a reset there is no holder (R113). -/
theorem refsOk_held {d : Device} (hholders : ∀ n, Safety.holders s n = 0) (hnotices : s.notices = .fresh) (hd : d.resetHeld = true) :
    RefsOk { s with device := d } := by
  refine (refsOk_reset (.inl hd)).mpr ⟨hholders, ?_, fun q => fresh_records hnotices, fun h => nomatch hd.symm.trans h⟩
  show s.notices.target = 0
  rw [hnotices]
  rfl

theorem resetLow_refsOk (s : State) :
    RefsOk { s.startReset 0 with device := { (s.startReset 0).device with resetHeld := true } } :=
  refsOk_held (startReset_holders s 0) rfl rfl

/-- The restart point of RESTART FULL leaves no holder (R113, R205). -/
theorem restartPoint_refsOk (s : State) (count : Nat) : RefsOk (s.startReset count).beginStarting := by
  refine (refsOk_reset (.inr rfl)).mpr ⟨fun n => ?_, rfl, fun _ => fresh_records rfl, fun _ => rfl⟩
  rw [beginStarting_holders, startReset_holders]

theorem Balanced.event (h : Balanced [] s) (he : EventEffect s t) : RefsOk t := by
  cases he
  case request r f a hexec ha =>
    have hcommand := h.command ha
    exact (hcommand.completeRequest ((ha.executing).trans (Executing_running hexec).2.2)).refsOk
  case restartFull r f a hexec ha =>
    refine (Balanced.completeRequest (r := r) ?_ ?_).refsOk <;> rw [ha]
    · exact h.same ⟨rfl, rfl, fun _ => rfl, rfl, rfl, rfl, rfl⟩
    · exact (Executing_running hexec).2.2
  case resetLow => exact resetLow_refsOk s
  case release _ hr => exact absurd (hr.symm.trans h.awake.1) nofun
  case sweep _ hs => exact absurd (hs.symm.trans h.awake.2) nofun
  case restartPoint => exact restartPoint_refsOk s _
  case startMark => exact h.receiveEnding.refsOk
  case endOfFrame p data ending _ _ =>
    refine (Balanced.receiveEnding ?_).refsOk
    exact h.setPort rfl
  case abandoned p n rest _ hw hx =>
    obtain ⟨x, hx'⟩ := (h.setAwaiting hw).slot_some (n := n) (by simp)
    exact absurd (hx.symm.trans hx') nofun
  case classified p n rest x _ hw hx =>
    exact ((Balanced.classifier n).classify (h.setAwaiting hw)).release.refsOk
  case transmitted ht => exact (h.finishTransmission ht).refsOk
  case claimExpired c _ _ =>
    exact (h.same (t := (s.setClaim none).raise .claimExpired c.holder) ⟨rfl, rfl, fun _ => rfl, rfl, rfl, rfl, rfl⟩).refsOk
  case syncExpired =>
    exact (h.same (loseSync_holdings s 0)).refsOk
  case unblocked p _ _ => exact (Balanced.refsOk (by exact h.setPort rfl))
  case errorWindow p _ => exact (Balanced.refsOk (by exact h.setPort rfl))
  case served => exact h.takeService.refsOk
  case millisecond hlow =>
    exact (h.same (millisecond_holdings hlow)).refsOk
  all_goals
    refine Balanced.refsOk (h.same ?_)
    exact ⟨rfl, rfl, fun _ => rfl, rfl, rfl, rfl, rfl⟩

theorem Quiet.event (h : Quiet s) (hreset : s.device.resetHeld = true ∨ s.device.sweeping = true)
    (he : EventEffect s t) : RefsOk t := by
  have hstill : ∀ (u : State), SameHoldings s u → u.notices = s.notices → u.device = s.device → RefsOk u :=
    fun u hs hn hd => h.refsOk_same hreset hs (by rw [hn]) (fun q => by unfold State.source; rw [hn]) (by rw [hd])
  have hnotRunning : s.device.resetHeld = false → s.device.state ≠ .running := fun hr => by
    rw [h.starting hr]
    exact nofun
  cases he
  case nothing => exact (refsOk_reset hreset).mpr h
  case request hexec _ => exact absurd (Executing_running hexec).1 (hnotRunning (Executing_running hexec).2.1)
  case restartFull hexec _ => exact absurd (Executing_running hexec).1 (hnotRunning (Executing_running hexec).2.1)
  case resetLow => exact resetLow_refsOk s
  case release =>
    refine (refsOk_reset (.inr rfl)).mpr ⟨fun n => ?_, h.target, h.records, fun _ => rfl⟩
    refine Eq.trans ?_ ((lineIdle_holders s.beginStarting n).trans ((beginStarting_holders s n).trans (h.holders n)))
    rfl
  case sweep hlow _ =>
    refine Balanced.refsOk ⟨rfl, ⟨hlow, rfl⟩, fun n => ?_, fun n x hx => nomatch hx⟩
    refine Eq.trans ?_ (congrArg (· + 0) (h.holders n)).symm
    rfl
  case restartPoint => exact restartPoint_refsOk s _
  case startMark p hlow _ =>
    obtain ⟨hs, hn, hd⟩ := receiveEnding_notRunning (p := p) (ending := .startMark) (hnotRunning hlow)
    exact hstill _ hs hn hd
  case endOfFrame p data ending hlow _ =>
    have hfed : SameHoldings s (s.setReceiver p ((s.port p).receiver.feed data)) := .setPort rfl
    obtain ⟨hs, hn, hd⟩ := receiveEnding_notRunning (s := s.setReceiver p ((s.port p).receiver.feed data)) (p := p)
      (ending := ending) (hnotRunning hlow)
    exact hstill _ (hfed.trans hs) hn hd
  case abandoned hw _ => exact absurd (holders_of_awaiting hw) (by rw [h.holders]; omega)
  case classified hw _ => exact absurd (holders_of_awaiting hw) (by rw [h.holders]; omega)
  case transmitted ht => exact absurd (holders_of_transmitter ht) (by rw [h.holders]; omega)
  case claimExpired c _ _ =>
    exact h.refsOk_same hreset (t := (s.setClaim none).raise .claimExpired c.holder)
      ⟨rfl, rfl, fun _ => rfl, rfl, rfl, rfl, rfl⟩ rfl (raise_record (s.setClaim none) _ _) rfl
  case syncExpired =>
    refine h.refsOk_same hreset (loseSync_holdings s 0) ?_ (fun q => ?_) ?_
    · rw [(loseSync_only s 0).1]; rfl
    · refine Eq.trans ?_ (raise_record s .syncLost 0 q)
      rw [(loseSync_only s 0).1]
      rfl
    · rw [(loseSync_only s 0).1]
  case unblocked p _ _ =>
    refine hstill _ ?_ rfl rfl
    exact .setPort rfl
  case errorWindow p _ =>
    refine hstill _ ?_ rfl rfl
    exact .setPort rfl
  case resendDue hx => exact absurd (hx.symm.trans (h.records _)) nofun
  case givenUp hx => exact absurd (hx.symm.trans (h.records _)) nofun
  case served =>
    have hcleared : ∀ a : NoticeUnit, a.target = s.notices.target → a.sources = s.notices.sources →
        RefsOk { s with notices := a } := fun a htarget hsources =>
      h.refsOk_same hreset ⟨rfl, rfl, fun _ => rfl, rfl, rfl, rfl, rfl⟩ htarget
        (fun q => by show (a.sources.get q).record = _; rw [hsources]; rfl) rfl
    rcases takeService_cases s with e | e | e <;> rw [e]
    · exact (refsOk_reset hreset).mpr h
    · exact hcleared _ rfl rfl
    · have hnone := fun r => sendOf_none
        (s := { s with notices := { s.notices with causeDue := false, offerDue := false } }) h.target h.records r
      rw [serve_nothing hnone]
      exact hcleared _ rfl rfl
  case millisecond hlow =>
    refine h.refsOk_same hreset (millisecond_holdings hlow) ?_ (fun q => ?_) ?_ <;> unfold State.millisecond <;>
      rw [if_neg (by simp [hlow])]
    show ((s.notices.sources.map _).get q).record = _
    rw [PerSource.get_map]
    rfl
  all_goals exact hstill _ ⟨rfl, rfl, fun _ => rfl, rfl, rfl, rfl, rfl⟩ rfl rfl

/-- Settles O59, over every event's effect. -/
theorem stepKeepsTheReferences : Obligations.StepKeepsTheReferences := by
  unfold Obligations.StepKeepsTheReferences
  intro s t hslots hrefs hstep
  obtain ⟨rest, heffect⟩ := step_effect hstep
  by_cases hreset : s.device.resetHeld = true ∨ s.device.sweeping = true
  · have hquiet : Quiet { s with pending := rest } := (refsOk_reset (s := { s with pending := rest }) hreset).mp hrefs
    exact hquiet.event hreset heffect
  · have hawake : s.device.resetHeld = false ∧ s.device.sweeping = false := by simpa using hreset
    unfold RefsOk at hrefs
    rw [if_neg hreset] at hrefs
    have hbalanced : Balanced [] { s with pending := rest } :=
      ⟨hslots.1, hawake, fun n => (hrefs n).1, fun n => (hrefs n).2⟩
    exact hbalanced.event heffect

end Sys2Proof.Safety
end

section
/-! SUPPORT. The step, the resets and the sweep (10.1 to 10.3): what each leaves, block by block, and the statements on
them. -/

namespace Sys2Proof.Machine

open Sys2Proof.Safety

variable {s : State} {p : Port} {count : Nat}

/-! ## The step -/

/-- Settles O1: the step's own equation on a queue with a front. -/
theorem stepTakesFrontCommand : Obligations.StepTakesFrontCommand := by
  unfold Obligations.StepTakesFrontCommand
  intro c rest s h
  unfold step
  rw [h]

theorem step_millisecond (h : s.pending = []) : step s = .next s.millisecond := by
  unfold step
  rw [h]

theorem millisecond_of_held (h : s.device.resetHeld = true) : s.millisecond = s := if_pos h

/-- The millisecond's next state, block by block. -/
theorem millisecond_eq (h : s.device.resetHeld = false) :
    s.millisecond =
      { s with
        stations :=
          { s.stations with agingClock := s.stations.agingClock - 1, moveWindow := s.stations.moveWindow - 1 }
        meters := { s.meters with meters := s.meters.meters.map (fun m => { m with timer := countPeriod m.timer }) }
        store := { s.store with clock := s.store.clock + 1 }
        ports := s.ports.map PortUnit.countDown
        sync := { s.sync with timer := countDown s.sync.timer }
        agent := { s.agent with claim := s.agent.claim.map Claim.countDown }
        notices :=
          { s.notices with sources := s.notices.sources.map (fun x => { x with timer := countDown x.timer }) } } :=
  if_neg (by simp [h])

/-- Settles O2: the millisecond's equation, port by port and source by source. -/
theorem emptyQueueIsOneMillisecond : Obligations.EmptyQueueIsOneMillisecond := by
  unfold Obligations.EmptyQueueIsOneMillisecond
  intro s hempty
  refine ⟨fun hheld => by rw [step_millisecond hempty, millisecond_of_held hheld], fun hreleased =>
    ⟨s.millisecond, step_millisecond hempty, ?_⟩⟩
  rw [millisecond_eq hreleased]
  refine ⟨rfl, rfl, rfl, hempty, rfl, rfl, fun p => ?_, rfl, rfl, rfl, rfl, fun q => ?_⟩
  · exact PerPort.get_map _ _ _
  · exact PerSource.get_map _ _ _

/-! ## The start of a reset -/

/-- A reset starts at every block: what only the sweep writes stays as the stop of the egresses leaves it. -/
theorem startReset_eq (s : State) (count : Nat) :
    s.startReset count =
      { s with
        rules := s.rules.startReset
        stations := s.stations.startReset
        meters := s.meters.startReset
        store :=
          { s.store with
            slots := (s.startReset count).store.slots, held := (s.startReset count).store.held
            awaiting := ⟨[], [], [], [], []⟩, clock := 0 }
        ports := (s.startReset count).ports
        sync := ⟨false, 20, none⟩
        agent := s.agent.startReset count
        notices := .fresh
        device := { s.device with sweeping := false, restartMark := none, restartDue := false } } := by
  have h := stopAll_only s
  unfold State.startReset
  generalize s.stopAll = u at h
  rw [h]

/-- A port unit at the start of a reset: its values at reset, with the error window's interval and the line kept, a
transmission aborted (R108, R113, R136). -/
theorem startReset_port (s : State) (count : Nat) (p : Port) :
    (s.startReset count).port p =
      { PortUnit.fresh with
        errorWindow := (s.port p).errorWindow
        egress :=
          { Egress.fresh with
            line := if (s.port p).egress.transmitter = none then (s.port p).egress.line else .abortMark } } := by
  have h := stopAll_port s p
  unfold State.startReset
  generalize s.stopAll = u at h
  have hmap : (u.ports.map PortUnit.startReset).get p = (u.port p).startReset := PerPort.get_map _ _ _
  refine Eq.trans hmap ?_
  rw [h]
  rfl

theorem startReset_awaiting (s : State) (count : Nat) (p : Port) : (s.startReset count).store.awaiting.get p = [] := by
  cases p <;> rfl

theorem exec_resetNLow (h : s.device.resetHeld = false) :
    exec .resetNLow s =
      .next { s.startReset 0 with device := { (s.startReset 0).device with resetHeld := true } } :=
  congrArg Host.Outcome.next (if_neg (by simp [h]))

/-- Settles O4, from the equation of the start of a reset. -/
theorem pinResetStarts : Obligations.PinResetStarts := by
  unfold Obligations.PinResetStarts
  intro s h
  refine ⟨_, exec_resetNLow h, ?_⟩
  have hports := startReset_port s 0
  have hawaiting := startReset_awaiting s 0
  have heq := startReset_eq s 0
  generalize s.startReset 0 = u at hports hawaiting heq ⊢
  refine ⟨by rw [heq], by rw [heq]; rfl, by rw [heq]; rfl, by rw [heq]; rfl, by rw [heq], hawaiting, hports, by rw [heq],
    by rw [heq]; rfl, by rw [heq], by rw [heq], by rw [heq]⟩

/-! ## While RESET_N is low -/

theorem executable_of_held (h : s.device.resetHeld = true) : s.executable = none := by
  unfold State.executable
  rw [h, if_neg (by simp)]

theorem runRequest_of_held (h : s.device.resetHeld = true) (mine : List Byte → Bool)
    (judge : Request → List Byte → State → Answer) : runRequest mine judge s = s := by
  unfold runRequest
  rw [executable_of_held h]

theorem runRestartFull_of_held (h : s.device.resetHeld = true) : runRestartFull s = s := by
  unfold runRestartFull
  rw [executable_of_held h]

/-- Settles O5: every event but the release asks for a RESET_N that is not low, and no execution can be taken. -/
theorem noEventWhileResetHeld : Obligations.NoEventWhileResetHeld := by
  unfold Obligations.NoEventWhileResetHeld
  intro c s hheld hwellFormed hnotRelease
  have hlow : ¬ s.device.resetHeld = false := by simp [hheld]
  cases c
  case resetNRelease straps => exact absurd rfl (hnotRelease straps)
  case resetNLow => exact congrArg Host.Outcome.next (if_pos hheld)
  case periodExpiry n =>
    have hmeter : meterOk n = true := hwellFormed
    show execPeriodExpiry n s = _
    unfold execPeriodExpiry
    rw [if_pos hmeter, if_neg (fun h => hlow h.1)]
  case restartFull => exact congrArg Host.Outcome.next (runRestartFull_of_held hheld)
  case classification | transmitComplete | claimExpiry | errorWindowExpiry | moveWindowExpiry | agingTick
      | noticeService =>
    exact congrArg Host.Outcome.next (if_neg hlow)
  case sweepComplete | restartPoint | endOfFrame | copyComplete | syncTimerExpiry | blockTimerExpiry | resendTimerExpiry
      | startMark =>
    exact congrArg Host.Outcome.next (if_neg (fun h => hlow h.1))
  all_goals exact congrArg Host.Outcome.next (runRequest_of_held hheld _ _)

/-! ## The release and the sweep -/

/-- The part after the release of RESET_N with these straps (R201). -/
def releasedWith (straps : BitVec 6) (s : State) : State :=
  { s.beginStarting with
    agent := { s.beginStarting.agent with address := Config.addressBase + straps.setWidth 16 }
    ports := s.beginStarting.ports.map (fun u => { u with egress := { u.egress with line := .idleFill } }) }

theorem releasedWith_port (straps : BitVec 6) (s : State) (p : Port) :
    (releasedWith straps s).port p =
      { s.port p with errorWindow := Config.windowMs, egress := { (s.port p).egress with line := .idleFill } } := by
  cases p <;> rfl

theorem exec_resetNRelease (straps : BitVec 6) (h : s.device.resetHeld = true) :
    exec (.resetNRelease straps) s = .next (releasedWith straps s) := congrArg Host.Outcome.next (if_pos h)

/-- Settles O6, from the equations of the release and of the sweep's end. -/
theorem releaseAndSweep : Obligations.ReleaseAndSweep := by
  unfold Obligations.ReleaseAndSweep
  refine ⟨fun straps s h => ?_, fun s hlow hsweeping => ?_⟩
  · rw [exec_resetNRelease straps h]
    rfl
  · exact congrArg Host.Outcome.next (if_pos ⟨hlow, hsweeping⟩)

/-! ## The restart point -/

theorem satNext_eq_min (top n : Nat) : satNext top n = min top (n + 1) := by
  unfold satNext
  split <;> omega

/-- The restart count is all that two starts of a reset differ in. -/
theorem startReset_count (s : State) (count : Nat) :
    s.startReset count = { s.startReset 0 with agent := { (s.startReset 0).agent with restartCount := count } } := by
  unfold State.startReset
  generalize s.stopAll = u
  rfl

theorem beginStarting_port (s : State) (p : Port) :
    s.beginStarting.port p = { s.port p with errorWindow := Config.windowMs } := PerPort.get_map _ _ _

theorem exec_restartPoint (h : s.device.resetHeld = false) (hd : s.device.restartDue = true) :
    exec .restartPoint s = .next (s.startReset (satNext 255 s.agent.restartCount)).beginStarting :=
  congrArg Host.Outcome.next (if_pos ⟨h, hd⟩)

/-- Settles O7: RESET_N low, the release and the restart point share their parts. -/
theorem restartPointResets : Obligations.RestartPointResets := by
  unfold Obligations.RestartPointResets
  intro s straps hlow hdue
  refine ⟨_, _, _, exec_resetNLow hlow, exec_resetNRelease straps rfl, exec_restartPoint hlow hdue, ?_, fun p => ?_⟩
  · rw [satNext_eq_min, startReset_count s (min 255 (s.agent.restartCount + 1))]
    have haddress : (s.startReset 0).agent.address = s.agent.address := by rw [startReset_eq]; rfl
    have hheld : (s.startReset 0).device.resetHeld = s.device.resetHeld := by rw [startReset_eq]
    generalize s.startReset 0 = u at haddress hheld ⊢
    rw [← haddress]
    rfl
  · rw [releasedWith_port, beginStarting_port, startReset_port]
    have hport := startReset_port s 0 p
    generalize s.startReset 0 = u at hport
    have hdevice : ∀ d : Device, ({ u with device := d } : State).port p = u.port p := fun _ => rfl
    rw [hdevice, hport]

/-! ## The part right after reset -/

/-- Settles O3: the values of `State.reset`, read off. -/
theorem resetLeavesTheseValues : Obligations.ResetLeavesTheseValues := by
  unfold Obligations.ResetLeavesTheseValues
  refine ⟨rfl, rfl, rfl, rfl, rfl, rfl, rfl, rfl, rfl, rfl, fun m hm => ?_, rfl, rfl, fun p => ?_, fun p => ?_, rfl, rfl,
    rfl, rfl, rfl, rfl, rfl, rfl, rfl, fun q => ?_⟩
  · obtain ⟨-, rfl⟩ := List.mem_replicate.mp hm
    exact ⟨rfl, rfl⟩
  · cases p <;> rfl
  · cases p <;> rfl
  · cases q <;> rfl

theorem reset_port (p : Port) : State.reset.port p = .fresh := by cases p <;> rfl

theorem fresh_settled : UnitSettled .fresh := by
  refine .of_empty ⟨fun c => ?_, ⟨nofun, nofun, nofun, ?_, ?_, ?_⟩⟩ ⟨rfl, rfl⟩ nofun
  case refine_2 => show 1 ≤ 4; omega
  case refine_3 => show 1 ≤ 2; omega
  case refine_4 => show 1 ≤ 1; omega
  rcases cls_cases c with rfl | rfl | rfl | rfl <;> exact Nat.zero_le _

theorem reset_meterBankOk : MeterBankOk State.reset := by
  refine ⟨List.length_replicate, fun m hm => ?_⟩
  obtain ⟨-, rfl⟩ := List.mem_replicate.mp hm
  exact ⟨Nat.le_refl _, .inr (.inl rfl), by decide⟩

theorem reset_refsOk : RefsOk State.reset :=
  (refsOk_reset (.inr rfl)).mpr
    ⟨holders_eq_zero (fun q => by rw [reset_port]; exact ⟨rfl, rfl⟩) (fun q => by cases q <;> rfl) rfl rfl, rfl,
      fun _ => fresh_records rfl, fun _ => rfl⟩

/-- Settles O60, block by block. -/
theorem resetMeetsTheInvariants : Obligations.ResetMeetsTheInvariants := by
  unfold Obligations.ResetMeetsTheInvariants
  obtain ⟨hqueues, hidle, hout⟩ := (egressesOk_iff (s := State.reset)).mp (fun p => by rw [reset_port]; exact fresh_settled)
  obtain ⟨hdepths, hkeys, haddress⟩ := (agentOk_iff (s := State.reset)).mp (.fresh (isStation_of_straps _) 0)
  obtain ⟨hmeters, harm, htimers⟩ := meterBankOk_iff.mp reset_meterBankOk
  refine ⟨⟨rfl, nofun⟩, ⟨rfl, Nat.zero_le _⟩, fun p => by cases p <;> rfl, ⟨⟨rfl, nofun⟩, ⟨rfl, nofun⟩⟩, ⟨nofun, nofun⟩,
    hmeters, harm, htimers, ⟨fun p => .inl ?_, ?_⟩, ⟨rfl, nofun⟩, rfl, hqueues, hidle, hout, hdepths, hkeys, haddress,
    fresh_sequencesOk rfl, reset_refsOk⟩
  · rw [reset_port]
    rfl
  · rw [reset_port]
    exact nofun

end Sys2Proof.Machine
end

section
/-! SUPPORT. The frame's layout read back (R117, R118, R210): a legal frame's bytes are judged good, and no other bytes. -/

namespace Sys2Proof.Machine

open Sys2Proof.Safety

variable {f : Frame} {bytes : List Byte}

/-! ## A legal frame's bytes -/

theorem admitFrame_ok {dest src : Word} {kind : Kind} {cls : BitVec 2} {tag : Option (BitVec 12)} {hops : BitVec 4}
    {len seq : Byte} {payload : List Byte} {check : Word} (hlen : payload.length ≤ 64) (hbyte : len = BitVec.ofNat 8 payload.length)
    (hdest : dest ≠ 0) (hsrc : isStation src = true) :
    admitFrame dest src kind cls tag hops len seq payload check = some ⟨dest, src, kind, cls, tag, hops, seq, payload, check⟩ := by
  have hvalue : len.toNat = payload.length := by
    rw [hbyte, BitVec.toNat_ofNat]
    exact Nat.mod_eq_of_lt (by omega)
  exact if_pos ⟨by rw [hvalue]; exact hlen, hvalue.symm, hdest, hsrc⟩

/-- The bytes before the check of a legal frame read back as the frame. -/
theorem readFrame_body (h : FrameOk f) : readFrame f.body f.check = some f := by
  obtain ⟨hlen, hdest, hsrc, -⟩ := h
  obtain ⟨hkind, hcls, htagged, hlow⟩ := kindByte_fields f
  obtain ⟨hhigh, hhops⟩ := hopsByte_fields f.hops
  unfold Frame.body
  simp only [wordBytes, List.cons_append, List.nil_append]
  unfold readFrame
  simp only [hkind, kindOf_kindCode, hlow, hhigh, and_self, if_true, htagged, hcls, hhops, wordOf_bytes]
  cases htag : f.tag with
  | none =>
    have hnot : f.tagged = false := by unfold Frame.tagged; rw [htag]; rfl
    simp only [hnot, tagBytes, List.nil_append, Bool.false_eq_true, if_false]
    rw [admitFrame_ok hlen rfl hdest hsrc, ← htag]
  | some v =>
    have hyes : f.tagged = true := by unfold Frame.tagged; rw [htag]; rfl
    simp only [hyes, tagBytes, wordBytes, List.cons_append, List.nil_append, if_true, tagWord_high, wordOf_bytes, tagWord_low]
    rw [admitFrame_ok hlen rfl hdest hsrc, ← htag]

theorem body_length (f : Frame) : f.body.length = 8 + (tagBytes f.tag).length + f.payload.length := by
  unfold Frame.body
  simp only [List.length_append, wordBytes, List.length_cons, List.length_nil]

theorem tagBytes_length (t : Option (BitVec 12)) : (tagBytes t).length ≤ 2 := by
  cases t with
  | none => exact Nat.zero_le _
  | some v => exact Nat.le_refl _

theorem toBytes_length (f : Frame) : f.toBytes.length = f.body.length + 2 := by
  unfold Frame.toBytes
  rw [List.length_append]
  rfl

/-- A legal frame has 10 to 76 bytes (R117). -/
theorem toBytes_length_range (h : FrameOk f) : 10 ≤ f.toBytes.length ∧ f.toBytes.length ≤ 76 := by
  have htag := tagBytes_length f.tag
  have hlen := h.1
  rw [toBytes_length, body_length]
  omega

theorem take_append_two {α : Type} (l : List α) (a b : α) : (l ++ [a, b]).take ((l ++ [a, b]).length - 2) = l := by
  simp

theorem wordAt_append_two (l : List Byte) (a b : Byte) : wordAt (l ++ [a, b]) ((l ++ [a, b]).length - 2) = wordOf a b := by
  have hdrop : (l ++ [a, b]).length - 2 = l.length + 0 := by simp
  rw [hdrop, ← wordAt_drop, List.drop_left]
  rfl

theorem toBytes_eq (f : Frame) : f.toBytes = f.body ++ [f.check.extractLsb' 8 8, f.check.extractLsb' 0 8] := rfl

theorem judgeFrame_toBytes (h : FrameOk f) : judgeFrame f.toBytes f.toBytes.length = .good f := by
  obtain ⟨hshort, hlong⟩ := toBytes_length_range h
  have hcount : ¬ (f.toBytes.length < Config.shortestFrame ∨ Config.receiveBytes < f.toBytes.length) := by
    unfold Config.shortestFrame Config.receiveBytes
    omega
  unfold judgeFrame
  rw [if_neg hcount]
  simp only
  rw [toBytes_eq, take_append_two, wordAt_append_two, wordOf_bytes, if_neg (by rw [h.2.2.2]; simp), readFrame_body h]

/-! ## Bytes judged good -/

theorem kindByte_join : ∀ b : Byte, b.extractLsb' 0 2 = 0 →
    b.extractLsb' 5 3 ++ b.extractLsb' 3 2 ++ BitVec.ofBool (b.getLsbD 2) ++ (0 : BitVec 2) = b := by decide

theorem hopsByte_join : ∀ b : Byte, b.extractLsb' 4 4 = 0 → (b.setWidth 4).setWidth 8 = b := by decide

/-- A tag field with bits 15 to 12 clear is its low 12 bits. -/
theorem tagWord_join {a b : Byte} (h : a.extractLsb' 4 4 = 0) : ((wordOf a b).setWidth 12).setWidth 16 = wordOf a b := by
  have ha : a.toNat / 16 = 0 := by rw [← high_nibble, h]; rfl
  have hb := b.isLt
  apply BitVec.eq_of_toNat_eq
  rw [BitVec.toNat_setWidth, BitVec.toNat_setWidth, toNat_wordOf]
  omega

theorem admitFrame_some {dest src : Word} {kind : Kind} {cls : BitVec 2} {tag : Option (BitVec 12)} {hops : BitVec 4}
    {len seq : Byte} {payload : List Byte} {check : Word}
    (h : admitFrame dest src kind cls tag hops len seq payload check = some f) :
    f = ⟨dest, src, kind, cls, tag, hops, seq, payload, check⟩ ∧ payload.length ≤ 64 ∧
      BitVec.ofNat 8 payload.length = len ∧ dest ≠ 0 ∧ isStation src = true := by
  unfold admitFrame at h
  split at h
  · next hc =>
    obtain ⟨hlong, hlen, hdest, hsrc⟩ := hc
    refine ⟨(Option.some.inj h).symm, by rw [hlen]; exact hlong, ?_, hdest, hsrc⟩
    rw [hlen, BitVec.ofNat_toNat, BitVec.setWidth_eq]
  · cases h

/-- Bytes that read as a frame are its bytes before the check. -/
theorem readFrame_some {body : List Byte} {check : Word} (h : readFrame body check = some f) :
    f.body = body ∧ f.check = check ∧ f.payload.length ≤ 64 ∧ f.dest ≠ 0 ∧ isStation f.src = true := by
  unfold readFrame at h
  split at h
  · next d1 d0 s1 s0 b4 b5 len seq rest =>
    split at h
    · cases h
    · next kind hkind =>
      split at h
      · next hzero =>
        obtain ⟨hlow, hhigh⟩ := hzero
        have hkindByte := kindByte_join b4 hlow
        have hhops := hopsByte_join b5 hhigh
        have hcode := kindCode_of hkind
        split at h
        · next htagged =>
          split at h
          · next t1 t0 payload =>
            split at h
            · next htag =>
              obtain ⟨rfl, hlong, hlen, hdest, hsrc⟩ := admitFrame_some h
              refine ⟨?_, rfl, hlong, hdest, hsrc⟩
              unfold Frame.body kindByte Frame.tagged
              rw [htagged] at hkindByte
              simp only [hcode, Option.isSome_some, hkindByte, hhops, hlen, wordBytes_wordOf, tagBytes, tagWord_join htag,
                List.cons_append, List.nil_append]
            · cases h
          · cases h
        · next htagged =>
          obtain ⟨rfl, hlong, hlen, hdest, hsrc⟩ := admitFrame_some h
          refine ⟨?_, rfl, hlong, hdest, hsrc⟩
          unfold Frame.body kindByte Frame.tagged
          rw [Bool.eq_false_iff.mpr htagged] at hkindByte
          simp only [hcode, Option.isSome_none, hkindByte, hhops, hlen, wordBytes_wordOf, tagBytes, List.cons_append,
            List.nil_append]
      · cases h
  · cases h

theorem eq_pair_of_length {α : Type} {l : List α} (h : l.length = 2) : ∃ a b, l = [a, b] :=
  match l, h with
  | [a, b], _ => ⟨a, b, rfl⟩

theorem judgeFrame_good (h : judgeFrame bytes bytes.length = .good f) : FrameOk f ∧ f.toBytes = bytes := by
  unfold judgeFrame at h
  split at h
  · cases h
  next hcount =>
  have hlen : 10 ≤ bytes.length := by
    unfold Config.shortestFrame at hcount
    omega
  obtain ⟨a, b, hdrop⟩ := eq_pair_of_length (show (bytes.drop (bytes.length - 2)).length = 2 by
    rw [List.length_drop]
    omega)
  have hbytes : bytes = bytes.take (bytes.length - 2) ++ [a, b] := by rw [← hdrop, List.take_append_drop]
  have hword : wordAt bytes (bytes.length - 2) = wordOf a b := by
    rw [← Nat.add_zero (bytes.length - 2), ← wordAt_drop, hdrop]
    rfl
  simp only [hword] at h
  split at h
  · cases h
  next hcheck =>
  split at h
  · cases h
  next g hread =>
  cases h
  obtain ⟨hbody, hchecked, hlong, hdest, hsrc⟩ := readFrame_some hread
  refine ⟨⟨hlong, hdest, hsrc, ?_⟩, ?_⟩
  · rw [hchecked, hbody]
    exact (Classical.not_not.mp hcheck).symm
  · unfold Frame.toBytes
    rw [hbody, hchecked, wordBytes_wordOf]
    exact hbytes.symm

/-- Settles O14, from the reader and the writer of the layout. -/
theorem frameRoundTrip : Obligations.FrameRoundTrip := by
  unfold Obligations.FrameRoundTrip
  exact ⟨fun _ => judgeFrame_toBytes, fun _ _ => judgeFrame_good⟩

end Sys2Proof.Machine
end

section
/-! SUPPORT. Reception (6.1, 6.2, R92): what ends a frame, what the tests of R117 make of it, and the statements on them. -/

namespace Sys2Proof.Machine

open Sys2Proof.Safety

variable {s : State} {p : Port} {f : Frame} {stored data : List Byte} {n : Nat} {ending : Ending}

/-! ## The receiver -/

@[simp] theorem setPort_setPort (s : State) (p : Port) (u v : PortUnit) : (s.setPort p u).setPort p v = s.setPort p v := by
  unfold State.setPort
  rw [PerPort.set_set]

theorem exec_startMark (h : s.device.resetHeld = false) (hp : s.inService p = true) :
    exec (.startMark p) s = .next (s.receiveEnding p .startMark) := congrArg Host.Outcome.next (if_pos ⟨h, hp⟩)

theorem exec_endOfFrame (data : List Byte) (ending : Ending) (h : s.device.resetHeld = false) (hp : s.inService p = true) :
    exec (.endOfFrame p data ending) s =
      .next ((s.setReceiver p ((s.port p).receiver.feed data)).receiveEnding p ending) :=
  congrArg Host.Outcome.next (if_pos ⟨h, hp⟩)

/-- The receiver after what ended the frame: a start mark begins a new one (R115). -/
def receiverAfter (ending : Ending) : Receiver := if ending = .startMark then .receiving [] 0 else .idle

/-- A frame in reception ends: it is judged, and a start mark begins a new one. -/
theorem receiveEnding_receiving (hr : (s.port p).receiver = .receiving stored n) :
    s.receiveEnding p ending =
      if ending = .startMark then
        ((s.setReceiver p .idle).judgeReception p stored n true).setReceiver p (.receiving [] 0)
      else (s.setReceiver p .idle).judgeReception p stored n (decide (ending ≠ .endMark)) := by
  unfold State.receiveEnding
  rw [hr]
  simp only
  split
  · next h => rw [h]; rfl
  · rfl

/-- A frame that ends with data at the same event, the receiver fed first (R115). -/
theorem exec_endOfFrame_receiving (h : s.device.resetHeld = false) (hp : s.inService p = true)
    (hr : (s.port p).receiver = .receiving stored n) :
    exec (.endOfFrame p data ending) s =
      .next
        (if ending = .startMark then
          ((s.setReceiver p .idle).judgeReception p ((stored ++ data).take 76) (n + data.length) true).setReceiver p
            (.receiving [] 0)
        else
          (s.setReceiver p .idle).judgeReception p ((stored ++ data).take 76) (n + data.length)
            (decide (ending ≠ .endMark))) := by
  have hfed : ((s.setReceiver p ((s.port p).receiver.feed data)).port p).receiver =
      .receiving ((stored ++ data).take 76) (n + data.length) := by
    unfold State.setReceiver
    rw [State.port_setPort_self, hr]
    rfl
  have hidle : (s.setReceiver p ((s.port p).receiver.feed data)).setReceiver p .idle = s.setReceiver p .idle := by
    unfold State.setReceiver
    rw [State.port_setPort_self, setPort_setPort]
  rw [exec_endOfFrame data ending h hp, receiveEnding_receiving hfed, hidle]

/-! ## The judgement -/

theorem judgeReception_notRunning {cutOff : Bool} (h : s.device.state ≠ .running) :
    s.judgeReception p stored n cutOff = s.countStartupDiscard := if_neg h

theorem judgeReception_cutOff (h : s.device.state = .running) :
    s.judgeReception p stored n true = s.count p .rxAbort := (if_pos h).trans (if_pos rfl)

theorem judgeReception_bad {c : Counter} (h : s.device.state = .running) (hj : judgeFrame stored n = .bad c) :
    s.judgeReception p stored n false = s.countError p c := by
  unfold State.judgeReception
  rw [if_pos h, hj]
  rfl

theorem judgeReception_good (h : s.device.state = .running) (hj : judgeFrame stored n = .good f) :
    s.judgeReception p stored n false = (s.count p .rxGood).claimSlot p f := by
  unfold State.judgeReception
  rw [if_pos h, hj]
  rfl

theorem setReceiver_count (s : State) (p : Port) (x : Receiver) (c : Counter) :
    (s.setReceiver p x).count p c =
      s.setPort p { s.port p with receiver := x, counters := (s.port p).counters.bump c } := by
  unfold State.setReceiver State.count
  rw [State.port_setPort_self, setPort_setPort]

/-! ## Start marks, and frames outside RUNNING -/

/-- A cut-off frame in RUNNING (R116, R117). -/
theorem cutOff_running (h : s.device.state = .running) (hending : ending ≠ .endMark) :
    (if ending = .startMark then ((s.setReceiver p .idle).judgeReception p stored n true).setReceiver p (.receiving [] 0)
      else (s.setReceiver p .idle).judgeReception p stored n (decide (ending ≠ .endMark))) =
      s.setPort p
        { s.port p with
          receiver := receiverAfter ending
          counters := (s.port p).counters.bump .rxAbort } := by
  have hrunning : (s.setReceiver p .idle).device.state = .running := h
  rw [decide_eq_true hending, judgeReception_cutOff hrunning, setReceiver_count]
  unfold receiverAfter
  split
  · unfold State.setReceiver
    rw [State.port_setPort_self, setPort_setPort]
  · rfl

/-- A frame that ends outside RUNNING, whatever ends it (R116). -/
theorem ended_notRunning {cutOff : Bool} (h : s.device.state ≠ .running) :
    (if ending = .startMark then ((s.setReceiver p .idle).judgeReception p stored n true).setReceiver p (.receiving [] 0)
      else (s.setReceiver p .idle).judgeReception p stored n cutOff) =
      { s.setPort p { s.port p with receiver := receiverAfter ending } with
        agent := { s.agent with startupDiscards := s.agent.startupDiscards + 1 } } := by
  have hstopped : (s.setReceiver p .idle).device.state ≠ .running := h
  rw [judgeReception_notRunning hstopped, judgeReception_notRunning hstopped]
  unfold receiverAfter
  split
  · have hset : ∀ a : Agent, ({ s.setReceiver p .idle with agent := a } : State).setReceiver p (.receiving [] 0) =
        { s.setPort p { s.port p with receiver := .receiving [] 0 } with agent := a } := by
      intro a
      unfold State.setReceiver State.setPort State.port
      simp only [PerPort.get_set_self, PerPort.set_set]
    exact hset _
  · rfl

/-- Settles O8: an IDLE receiver, and one with a frame in reception. -/
theorem startMarkBeginsAFrame : Obligations.StartMarkBeginsAFrame := by
  unfold Obligations.StartMarkBeginsAFrame
  intro p s hlow
  refine ⟨fun hout => congrArg Host.Outcome.next (if_neg (fun h => ?_)), fun hin => ⟨fun hidle => ?_, fun stored n hr =>
    ⟨fun hrunning => ?_, fun hstopped => ?_⟩⟩⟩
  · rw [hout] at h
    exact nomatch h.2
  · rw [exec_startMark hlow hin]
    unfold State.receiveEnding
    rw [hidle]
    rfl
  · rw [exec_startMark hlow hin, receiveEnding_receiving hr]
    exact congrArg Host.Outcome.next (cutOff_running (ending := .startMark) hrunning nofun)
  · rw [exec_startMark hlow hin, receiveEnding_receiving hr]
    exact congrArg Host.Outcome.next (ended_notRunning (ending := .startMark) hstopped)

/-- Settles O13. -/
theorem frameDiscardedOutsideRunning : Obligations.FrameDiscardedOutsideRunning := by
  unfold Obligations.FrameDiscardedOutsideRunning
  intro p s stored data n ending hlow hin hr hstopped
  rw [exec_endOfFrame_receiving hlow hin hr, ended_notRunning hstopped]
  rfl

/-! ## Good frames -/

/-- A good frame that arrives whole: counted, and then its slot claim. -/
theorem exec_goodFrame (hlow : s.device.resetHeld = false) (hrunning : s.device.state = .running)
    (hin : s.inService p = true) (hr : (s.port p).receiver = .receiving [] 0) (hf : FrameOk f) :
    exec (.endOfFrame p f.toBytes .endMark) s =
      .next ((s.setPort p
        { s.port p with receiver := .idle, counters := (s.port p).counters.bump .rxGood }).claimSlot p f) := by
  have hbytes : ([] ++ f.toBytes).take 76 = f.toBytes := List.take_of_length_le (toBytes_length_range hf).2
  have hset : (s.setReceiver p .idle).device.state = .running := hrunning
  rw [exec_endOfFrame_receiving hlow hin hr, if_neg (by exact nofun), hbytes, Nat.zero_add]
  refine congrArg Host.Outcome.next ?_
  rw [show decide (Ending.endMark ≠ .endMark) = false from rfl, judgeReception_good hset (judgeFrame_toBytes hf),
    setReceiver_count]

/-- Settles O9: the claim finds a slot. -/
theorem goodFrameTakesASlot : Obligations.GoodFrameTakesASlot := by
  unfold Obligations.GoodFrameTakesASlot
  intro p f s n hlow hrunning hin hr hf hquota hn
  rw [exec_goodFrame hlow hrunning hin hr hf]
  refine congrArg Host.Outcome.next ?_
  rcases claimSlot_cases (s.setPort p
    { s.port p with receiver := .idle, counters := (s.port p).counters.bump .rxGood }) p f with
    ⟨hfull, -⟩ | ⟨-, hnone, -⟩ | ⟨-, m, hm, e⟩
  · rw [State.port_setPort_self] at hfull
    exact absurd hquota (Nat.not_lt.mpr hfull)
  · exact nomatch hnone.symm.trans hn
  · obtain rfl : m = n := Option.some.inj (hm.symm.trans hn)
    exact e

/-- Settles O10: the claim finds the quota reached, or no slot. -/
theorem goodFrameWithoutASlotIsLost : Obligations.GoodFrameWithoutASlotIsLost := by
  unfold Obligations.GoodFrameWithoutASlotIsLost
  intro p f s hlow hrunning hin hr hf
  rw [exec_goodFrame hlow hrunning hin hr hf]
  have hcounted : ∀ c, (s.setPort p
      { s.port p with receiver := .idle, counters := (s.port p).counters.bump .rxGood }).count p c =
      s.setPort p { s.port p with receiver := .idle, counters := ((s.port p).counters.bump .rxGood).bump c } := by
    intro c
    unfold State.count
    rw [State.port_setPort_self, setPort_setPort]
  refine ⟨fun hfull => congrArg Host.Outcome.next ?_, fun hquota hnone => congrArg Host.Outcome.next ?_⟩ <;>
    rcases claimSlot_cases (s.setPort p
      { s.port p with receiver := .idle, counters := (s.port p).counters.bump .rxGood }) p f with
      ⟨hreached, e⟩ | ⟨hbelow, hfree, e⟩ | ⟨hbelow, m, hm, e⟩
  · rw [e, hcounted]
  · rw [State.port_setPort_self] at hbelow
    exact absurd hbelow (Nat.not_lt.mpr hfull)
  · rw [State.port_setPort_self] at hbelow
    exact absurd hbelow (Nat.not_lt.mpr hfull)
  · rw [State.port_setPort_self] at hreached
    exact absurd hquota (Nat.not_lt.mpr hreached)
  · rw [e, hcounted]
  · exact nomatch hnone.symm.trans hm

/-! ## Errors -/

/-- A counted error that blocks no branch (R124). -/
theorem setReceiver_countError (c : Counter)
    (hfree : p = .t ∨ (s.port p).errorLimit = 0 ∨ (s.port p).errorCount + 1 < (s.port p).errorLimit) :
    (s.setReceiver p .idle).countError p c =
      s.setPort p
        { s.port p with
          receiver := .idle
          counters := (s.port p).counters.bump c
          errorCount := min 255 ((s.port p).errorCount + 1) } := by
  unfold State.countError
  simp only
  rw [setReceiver_count, State.port_setPort_self, setPort_setPort, satNext_eq_min, if_neg ?_]
  rintro ⟨hbranch, hlimit, hreached⟩
  rcases hfree with ht | hzero | hbelow
  · exact hbranch ht
  · exact hlimit hzero
  · simp only at hreached
    omega

/-- Settles O11: the cut-off frame, and the three ways of a bad judgement. -/
theorem badFrameIsCounted : Obligations.BadFrameIsCounted := by
  unfold Obligations.BadFrameIsCounted
  intro p s stored data n hlow hrunning hin hr hfree
  simp only
  have hset : (s.setReceiver p .idle).device.state = .running := hrunning
  have hbad : ∀ c, judgeFrame ((stored ++ data).take 76) (n + data.length) = .bad c →
      exec (.endOfFrame p data .endMark) s = .next
        (s.setPort p
          { s.port p with
            receiver := .idle
            counters := (s.port p).counters.bump c
            errorCount := min 255 ((s.port p).errorCount + 1) }) := by
    intro c hj
    rw [exec_endOfFrame_receiving hlow hin hr, if_neg (by exact nofun)]
    refine congrArg Host.Outcome.next ?_
    rw [show decide (Ending.endMark ≠ .endMark) = false from rfl, judgeReception_bad hset hj, setReceiver_countError c hfree]
  have hcount : 10 ≤ n + data.length → n + data.length ≤ 76 →
      ¬ (n + data.length < Config.shortestFrame ∨ Config.receiveBytes < n + data.length) := by
    unfold Config.shortestFrame Config.receiveBytes
    omega
  refine ⟨fun ending hending => ?_, fun hlength => hbad _ ?_, fun hmin hmax hcrc => hbad _ ?_,
    fun hmin hmax hcrc hread => hbad _ ?_⟩
  · rw [exec_endOfFrame_receiving hlow hin hr, cutOff_running hrunning hending]
    rfl
  · exact if_pos hlength
  · exact (if_neg (hcount hmin hmax)).trans (if_pos hcrc)
  · refine (if_neg (hcount hmin hmax)).trans ((if_neg (Classical.not_not.mpr hcrc)).trans ?_)
    rw [hread]

end Sys2Proof.Machine
end

section
/-! SUPPORT. A port leaves service (R108, R109, R122): its egress stopped, whatever it was sending aborted; and the branch
that its errors block (R125). -/

namespace Sys2Proof.Machine

open Sys2Proof.Safety

variable {s : State} {p : Port}

/-- A release, and then nothing of the store's slots, its held counts and the slot offer. -/
theorem releases_then_same {refs : Nat → Nat} {s t u : State} (h : Releases refs s t) (h1 : u.store.slots = t.store.slots)
    (h2 : u.store.held = t.store.held) (h3 : u.notices.offerDue = t.notices.offerDue) : Releases refs s u :=
  (h.trans (.same h1 h2 h3)).congr (fun _ => rfl)

theorem releaseAll_ports (l : List Nat) (s : State) : (State.releaseAll l s).ports = s.ports := by
  induction l generalizing s with
  | nil => rfl
  | cons n rest ih =>
    unfold State.releaseAll
    rw [ih, releaseRef_ports, reportEnd_ports]

/-- The counters of a port whose egress stops: an aborted transmission counts (R108). -/
def stoppedCounters (u : PortUnit) : Counters :=
  if u.egress.transmitter = none then u.counters else u.counters.bump .txAbort

theorem abortTransmission_port (s : State) (p : Port) :
    (s.abortTransmission p).port p =
      { s.port p with
        counters := stoppedCounters (s.port p)
        egress := ((s.abortTransmission p).port p).egress } := by
  unfold State.abortTransmission stoppedCounters
  simp only
  split
  · next h => rw [if_pos h]
  · next n h =>
    have hports : ∀ u : State, ((u.reportEnd n).releaseRef n).port p = u.port p := by
      intro u
      unfold State.port
      rw [releaseRef_ports, reportEnd_ports]
    rw [hports, State.port_count_self, State.port_setEgress_self, if_neg (by rw [h]; exact nofun)]

/-- The whole unit of a port whose egress stops. -/
theorem stopEgress_port (s : State) (p : Port) :
    (s.stopEgress p).port p =
      { s.port p with counters := stoppedCounters (s.port p), egress := stoppedEgress (s.port p).egress } := by
  have hegress := stopEgress_egress s p
  have hunit : (s.stopEgress p).port p =
      { (s.abortTransmission p).port p with egress := ((s.stopEgress p).port p).egress } := by
    unfold State.stopEgress
    simp only
    unfold State.port
    rw [releaseAll_ports]
    unfold State.setEgress State.setPort
    rw [PerPort.get_set_self]
    rfl
  rw [hunit, hegress, abortTransmission_port]
  rfl

/-- What leaving service makes of every block but the lock, for a port other than an ACTIVE T (R122). -/
theorem leaveService_eq (new : PortState) (h : ¬ (p = .t ∧ s.isActive p = true)) :
    s.leaveService p new =
      ((s.stopEgress p).setPort p
        { (s.stopEgress p).port p with state := new, receiver := .idle, errorCount := 0 }).setEntries
          (removeLearnedOn p (s.stopEgress p).stations.entries) := if_neg h

/-- The lock's loss touches no slot. -/
theorem trunkLeavesActive_store (u : State) :
    u.trunkLeavesActive.store.slots = u.store.slots ∧ u.trunkLeavesActive.store.held = u.store.held ∧
      u.trunkLeavesActive.notices.offerDue = u.notices.offerDue := by
  rcases trunkLeavesActive_cases u with ⟨_, e⟩ | ⟨_, e⟩ <;> rw [e]
  · rw [(loseSync_only u 1).1]
    exact ⟨rfl, rfl, rfl⟩
  · exact ⟨rfl, rfl, rfl⟩

/-- Leaving service releases the references of the port's queues and transmitter, and no others (R109). -/
theorem leaveService_releases (s : State) (p : Port) (new : PortState) : Releases (egressRefs s p) s (s.leaveService p new) := by
  have hleft : Releases (egressRefs s p) s
      (((s.stopEgress p).setPort p
        { (s.stopEgress p).port p with state := new, receiver := .idle, errorCount := 0 }).setEntries
          (removeLearnedOn p (s.stopEgress p).stations.entries)) :=
    releases_then_same (stopEgress_releases s p) rfl rfl rfl
  unfold State.leaveService
  simp only
  split
  · obtain ⟨hslots, hheld, hoffer⟩ := trunkLeavesActive_store
      (((s.stopEgress p).setPort p
        { (s.stopEgress p).port p with state := new, receiver := .idle, errorCount := 0 }).setEntries
          (removeLearnedOn p (s.stopEgress p).stations.entries))
    exact releases_then_same hleft hslots hheld hoffer
  · exact hleft

/-! ## Blocking -/

theorem raise_port (s : State) (r : Source) (d : Word) (q : Port) : (s.raise r d).port q = s.port q := rfl

theorem occur_eq (x : NoticeSource) (d : Word) :
    x.occur d = { x with pending := true, occurrences := min 255 (x.occurrences + 1), detail := d } := by
  rw [← satNext_eq_min]
  rfl

theorem raise_sources (s : State) (r : Source) (d : Word) :
    (s.raise r d).notices.sources = s.notices.sources.set r ((s.notices.sources.get r).occur d) := rfl

/-- The part after the error that reaches a branch's limit. -/
theorem setReceiver_countError_blocks (c : Counter) (hbranch : p ≠ .t) (hlimit : (s.port p).errorLimit ≠ 0)
    (hreached : (s.port p).errorLimit ≤ (s.port p).errorCount + 1) (hrange : (s.port p).errorLimit ≤ 255) :
    (s.setReceiver p .idle).countError p c =
      (s.setPort p
        { s.port p with
          receiver := .idle
          counters := (s.port p).counters.bump c
          errorCount := min 255 ((s.port p).errorCount + 1) }).block p := by
  have hlimited : (s.port p).errorLimit ≤ min 255 ((s.port p).errorCount + 1) := by omega
  unfold State.countError
  simp only
  rw [setReceiver_count, State.port_setPort_self, setPort_setPort, satNext_eq_min, if_pos ⟨hbranch, hlimit, hlimited⟩]

/-- What a block leaves, block by block (R125). -/
structure Blocked (p : Port) (s t : State) : Prop where
  port : t.port p =
    { s.port p with
      state := .blocked
      receiver := .idle
      errorCount := 0
      blockTimer := some ((s.port p).blockInterval * 1000)
      counters := stoppedCounters (s.port p)
      egress := stoppedEgress (s.port p).egress }
  others : ∀ q, q ≠ p → t.port q = s.port q
  stations : t.stations = { s.stations with entries := removeLearnedOn p s.stations.entries }
  raised : t.notices.sources = (s.raise .portBlocked (BitVec.ofNat 16 (portNumber p))).notices.sources
  due : t.notices.causeDue = true
  rules : t.rules = s.rules
  meters : t.meters = s.meters
  sync : t.sync = s.sync
  agent : t.agent = s.agent
  awaiting : t.store.awaiting = s.store.awaiting
  choices : t.choices = s.choices
  releases : Releases (egressRefs s p) s t

theorem block_blocked (hbranch : p ≠ .t) : Blocked p s (s.block p) := by
  have hnotTrunk : ¬ (p = .t ∧ s.isActive p = true) := fun h => hbranch h.1
  have honly := stopEgress_only s p
  have hport : (s.leaveService p .blocked).port p =
      { s.port p with
        state := .blocked, receiver := .idle, errorCount := 0, counters := stoppedCounters (s.port p)
        egress := stoppedEgress (s.port p).egress } := by
    rw [(leaveService_ports s p .blocked).1, stopEgress_port]
  have hreleases := leaveService_releases s p .blocked
  have heq := leaveService_eq .blocked hnotTrunk
  have hothers := (leaveService_ports s p .blocked).2
  have hfields : (s.leaveService p .blocked).stations =
        { s.stations with entries := removeLearnedOn p s.stations.entries } ∧
      (s.leaveService p .blocked).notices.sources = s.notices.sources ∧
      (s.leaveService p .blocked).rules = s.rules ∧ (s.leaveService p .blocked).meters = s.meters ∧
      (s.leaveService p .blocked).sync = s.sync ∧ (s.leaveService p .blocked).agent = s.agent ∧
      (s.leaveService p .blocked).store.awaiting = s.store.awaiting ∧ (s.leaveService p .blocked).choices = s.choices := by
    rw [heq]
    refine ⟨?_, honly.sources, honly.rules, honly.meters, honly.sync, honly.agent, honly.awaiting, honly.choices⟩
    unfold State.setEntries State.setPort
    simp only [honly.stations]
  unfold State.block
  simp only
  generalize s.leaveService p .blocked = u at *
  obtain ⟨hstations, hsources, hrules, hmeters, hsync, hagent, hawaiting, hchoices⟩ := hfields
  refine
    { port := ?_, others := fun q hq => ?_, stations := hstations, raised := ?_, due := rfl, rules := hrules, meters := hmeters,
      sync := hsync, agent := hagent, awaiting := hawaiting, choices := hchoices, releases := ?_ }
  · rw [raise_port, State.port_setPort_self, hport]
  · rw [raise_port, u.port_setPort_other hq, hothers q hq]
  · rw [raise_sources, raise_sources]
    show PerSource.set u.notices.sources _ _ = _
    rw [hsources]
    show PerSource.set _ _ (NoticeSource.occur (u.notices.sources.get _) _) = _
    rw [hsources]
  · exact releases_then_same hreleases rfl rfl rfl

/-- Settles O12: the error is counted, and then the branch is blocked. -/
theorem errorLimitBlocksABranch : Obligations.ErrorLimitBlocksABranch := by
  unfold Obligations.ErrorLimitBlocksABranch
  intro p s stored data n c hlow hrunning hin hr hbad hbranch hlimit hreached hrange
  have hset : (s.setReceiver p .idle).device.state = .running := hrunning
  have hexec : exec (.endOfFrame p data .endMark) s = .next
      ((s.setPort p
        { s.port p with
          receiver := .idle
          counters := (s.port p).counters.bump c
          errorCount := min 255 ((s.port p).errorCount + 1) }).block p) := by
    rw [exec_endOfFrame_receiving hlow hin hr, if_neg (by exact nofun)]
    refine congrArg Host.Outcome.next ?_
    rw [show decide (Ending.endMark ≠ .endMark) = false from rfl, judgeReception_bad hset hbad,
      setReceiver_countError_blocks c hbranch hlimit hreached hrange]
  refine ⟨_, hexec, ?_⟩
  have hblocked := block_blocked (s := s.setPort p
    { s.port p with
      receiver := .idle
      counters := (s.port p).counters.bump c
      errorCount := min 255 ((s.port p).errorCount + 1) }) hbranch
  have hsource : ∀ q, (State.block _ p).source q = (State.raise _ _ _).source q :=
    fun q => congrArg (PerSource.get · q) hblocked.raised
  have hport := hblocked.port
  rw [State.port_setPort_self] at hport
  refine ⟨?_, fun q hq => ?_, hblocked.stations, ?_, fun q hq => ?_, hblocked.due, hblocked.rules, hblocked.meters,
    hblocked.sync, hblocked.agent, hblocked.awaiting, hblocked.choices, fun hslots hheld => ?_⟩
  · rw [hport]
    rfl
  · rw [hblocked.others q hq, s.port_setPort_other hq]
  · rw [hsource, State.source_raise_self, occur_eq]
    rfl
  · rw [hsource, State.source_raise_other _ hq]
    rfl
  · have hcounted : Releases (fun _ => 0) s (s.setPort p
        { s.port p with
          receiver := .idle
          counters := (s.port p).counters.bump c
          errorCount := min 255 ((s.port p).errorCount + 1) }) := .same rfl rfl rfl
    refine ((hcounted.trans hblocked.releases).congr (fun m => ?_) hslots hheld).2
    unfold egressRefs
    rw [State.port_setPort_self, Nat.zero_add]

end Sys2Proof.Machine
end

section
/-! SUPPORT. Evaluation at a position, the hit counters and the copy of a bank (1.2, 1.3, 1.6): the first match as the
lowest position that decides, the counting of that position alone, the image that a copy leaves; and the statements that
follow from these laws. -/

namespace Sys2Proof.Machine

open Sys2Proof.Safety

variable {s : State} {p : Port} {f : Frame}

/-! ## The first match (R11) -/

/-- The rule at a position is considered for the arrival port and matches, with this action. -/
def PositionDecides (p : Port) (f : Frame) (x : Position) (a : Action) : Prop :=
  inPortSet p x.rule.arrival = true ∧ x.rule.decides f = some a

theorem firstMatch_of_decides {n : Nat} {x : Position} {a : Action} (h : PositionDecides p f x a)
    (rest : List (Nat × Position)) : firstMatch p f ((n, x) :: rest) = some (n, a) := by
  rw [firstMatch, if_pos h.1, h.2]

theorem firstMatch_of_not_decides {n : Nat} {x : Position} (h : inPortSet p x.rule.arrival = true → x.rule.decides f = none)
    (rest : List (Nat × Position)) : firstMatch p f ((n, x) :: rest) = firstMatch p f rest := by
  rw [firstMatch]
  split
  next hconsidered => rw [h hconsidered]
  next => rfl

/-- A position decides, or it is passed over. -/
theorem positionDecides_or (p : Port) (f : Frame) (x : Position) :
    (∃ a, PositionDecides p f x a) ∨ (inPortSet p x.rule.arrival = true → x.rule.decides f = none) := by
  cases hd : x.rule.decides f with
  | none => exact .inr (fun _ => rfl)
  | some a =>
    by_cases hconsidered : inPortSet p x.rule.arrival = true
    · exact .inl ⟨a, hconsidered, hd⟩
    · exact .inr (fun h => absurd h hconsidered)

/-- In rising order the first match is the lowest position that decides. -/
theorem firstMatch_some {l : List (Nat × Position)} {n : Nat} {a : Action} (hr : rising l = true)
    (h : firstMatch p f l = some (n, a)) :
    (∃ x, lookup n l = some x ∧ PositionDecides p f x a) ∧
      ∀ m y, m < n → lookup m l = some y → inPortSet p y.rule.arrival = true → y.rule.decides f = none := by
  induction l with
  | nil => cases h
  | cons e rest ih =>
    obtain ⟨k, x⟩ := e
    have hlow := rising_cons_lt hr
    rcases positionDecides_or p f x with ⟨b, hb⟩ | hpassed
    · rw [firstMatch_of_decides hb] at h
      cases h
      refine ⟨⟨x, by rw [lookup_cons, if_pos rfl], hb⟩, fun m y hm hy => ?_⟩
      rw [lookup_eq_none_of_lt (fun e he => ?_)] at hy
      · cases hy
      · rcases List.mem_cons.mp he with rfl | he
        · exact hm
        · exact Nat.lt_trans hm (hlow e he)
    · rw [firstMatch_of_not_decides hpassed] at h
      obtain ⟨⟨y, hy, hdecides⟩, hbelow⟩ := ih (rising_tail hr) h
      have hkn : k < n := hlow _ (lookup_mem hy)
      refine ⟨⟨y, by rw [lookup_cons, if_neg (Nat.ne_of_lt hkn)]; exact hy, hdecides⟩, fun m z hm hz => ?_⟩
      rw [lookup_cons] at hz
      split at hz
      next => cases hz; exact hpassed
      next => exact hbelow m z hm hz

theorem firstMatch_none {l : List (Nat × Position)} (h : firstMatch p f l = none) :
    ∀ e ∈ l, inPortSet p e.2.rule.arrival = true → e.2.rule.decides f = none := by
  induction l with
  | nil => nofun
  | cons e rest ih =>
    obtain ⟨k, x⟩ := e
    rcases positionDecides_or p f x with ⟨b, hb⟩ | hpassed
    · rw [firstMatch_of_decides hb] at h
      cases h
    · rw [firstMatch_of_not_decides hpassed] at h
      exact List.forall_mem_cons.mpr ⟨hpassed, ih h⟩

/-- What evaluation returns: the first match's position and action, or the default's. -/
theorem evaluate_cases (p : Port) (f : Frame) (s : State) :
    (∃ n a, firstMatch p f (s.rules.bank s.rules.working).positions = some (n, a) ∧
      evaluate p f s = ⟨a, some n, (s.rules.bank s.rules.working).header.observation⟩) ∨
    (firstMatch p f (s.rules.bank s.rules.working).positions = none ∧
      evaluate p f s =
        ⟨defaultAction (s.rules.bank s.rules.working).header.verdict, none,
          (s.rules.bank s.rules.working).header.observation⟩) := by
  unfold evaluate
  cases hm : firstMatch p f (s.rules.bank s.rules.working).positions with
  | none => exact .inr ⟨rfl, by simp only [hm]⟩
  | some x => exact .inl ⟨x.1, x.2, rfl, by simp only [hm]⟩

/-- Evaluation reads the Rule List alone. -/
theorem evaluate_congr {t : State} (h : t.rules = s.rules) (p : Port) (f : Frame) : evaluate p f t = evaluate p f s := by
  unfold evaluate
  rw [h]

theorem rising_bank (h : BanksOk s) (name : BankName) : rising (s.rules.bank name).positions = true := by
  obtain ⟨⟨ha, -⟩, ⟨hb, -⟩⟩ := h
  cases name with
  | a => exact ha
  | b => exact hb

/-- Settles O18: the first match of the working bank. -/
theorem firstMatchDecides : Obligations.FirstMatchDecides := by
  unfold Obligations.FirstMatchDecides
  intro s p f hbanks
  rcases evaluate_cases p f s with ⟨n, a, hmatch, hd⟩ | ⟨hmatch, hd⟩
  · obtain ⟨hat, hbelow⟩ := firstMatch_some (rising_bank hbanks _) hmatch
    rw [hd]
    refine ⟨rfl, fun m hm => ?_, fun hnone => nomatch hnone⟩
    cases hm
    exact ⟨hat, hbelow⟩
  · rw [hd]
    exact ⟨rfl, nofun, fun _ m y hy => firstMatch_none hmatch (m, y) (lookup_mem hy)⟩

/-! ## The hit counters (R10) -/

theorem nextHit_eq (c : Count) : nextHit c = if c.toNat = 4294967295 then c else c + 1 := by
  unfold nextHit
  have hiff : c = 0xFFFFFFFF ↔ c.toNat = 4294967295 := BitVec.toNat_inj.symm
  exact ite_congr (propext hiff) (fun _ => rfl) (fun _ => rfl)

theorem lookup_hit_self {k : Bank} {n : Nat} {x : Position} (h : lookup n k.positions = some x) :
    lookup n (k.hit n).positions = some { x with hits := nextHit x.hits } := by
  unfold Bank.hit
  rw [h]
  exact lookup_put_self _ _ _

theorem lookup_hit_other (k : Bank) {n m : Nat} (h : m ≠ n) :
    lookup m (k.hit n).positions = lookup m k.positions := by
  unfold Bank.hit
  split
  · rfl
  · exact lookup_put_other h _ _

theorem hit_header (k : Bank) (n : Nat) : (k.hit n).header = k.header := by
  unfold Bank.hit
  split <;> rfl

theorem countHit_of_position {d : Decision} {n : Nat} (h : d.position = some n) (s : State) :
    countHit d s =
      { s with rules := s.rules.setBank s.rules.working ((s.rules.bank s.rules.working).hit n) } := by
  unfold countHit
  rw [h]

theorem setBank_fields (r : RuleList) (name : BankName) (k : Bank) :
    r.setBank name k = { r with bankA := (r.setBank name k).bankA, bankB := (r.setBank name k).bankB } := by
  cases name <;> rfl

/-- Settles O20: the counter of the deciding position, when there is one. -/
theorem onlyTheDecidingCounterCounts : Obligations.OnlyTheDecidingCounterCounts := by
  unfold Obligations.OnlyTheDecidingCounterCounts
  intro s p f _
  generalize evaluate p f s = d
  dsimp only
  cases hd : d.position with
  | none =>
    rw [countHit_of_no_position hd]
    exact ⟨nofun, fun _ _ => rfl, rfl, rfl, rfl⟩
  | some n =>
    rw [countHit_of_position hd]
    refine ⟨fun m x hm hx => ?_, fun m hm => ?_, RuleList.bank_setBank_other _ _ _, ?_,
      congrArg (fun r => { s with rules := r }) (setBank_fields _ _ _)⟩
    · cases hm
      rw [RuleList.bank_setBank_self, lookup_hit_self hx, nextHit_eq]
    · rw [RuleList.bank_setBank_self]
      exact lookup_hit_other _ (fun h => hm (congrArg some h.symm))
    · rw [RuleList.bank_setBank_self, hit_header]

/-! ## The copy (R22) -/

theorem bank_setBank_standby (r : RuleList) (k : Bank) :
    (r.setBank r.standby k).bank r.standby = k ∧ (r.setBank r.standby k).bank r.working = r.bank r.working := by
  unfold RuleList.standby
  cases r.working with
  | a => exact ⟨rfl, rfl⟩
  | b => exact ⟨rfl, rfl⟩

theorem finishCopy_rules (s : State) (name : BankName) :
    (finishCopy s).rules.bank name =
      (s.rules.setBank s.rules.standby (s.rules.bank s.rules.working).copied).bank name := by
  cases name <;> rfl

theorem setBank_designator (r : RuleList) (name : BankName) (k : Bank) :
    (r.setBank name k).working = r.working ∧ (r.setBank name k).generation = r.generation ∧
      (r.setBank name k).copying = r.copying := by
  rw [setBank_fields]
  exact ⟨rfl, rfl, rfl⟩

theorem exec_copyComplete (h : s.device.resetHeld = false) (hc : s.rules.copying = true) :
    exec .copyComplete s = .next (finishCopy s) := congrArg Host.Outcome.next (if_pos ⟨h, hc⟩)

/-- Settles O34: the standby bank is the image of the working bank. -/
theorem copyCompletes : Obligations.CopyCompletes := by
  unfold Obligations.CopyCompletes
  intro s hlow hcopying
  obtain ⟨hstandby, hworking⟩ := bank_setBank_standby s.rules (s.rules.bank s.rules.working).copied
  rw [← finishCopy_rules] at hstandby hworking
  obtain ⟨hdesignator, hgeneration, -⟩ :=
    setBank_designator s.rules s.rules.standby (s.rules.bank s.rules.working).copied
  refine ⟨finishCopy s, exec_copyComplete hlow hcopying, rfl, hdesignator, hgeneration, hworking, by rw [hstandby]; rfl,
    fun k => ?_, rfl⟩
  rw [hstandby]
  exact lookup_mapValues (fun x : Position => { x with hits := 0 }) k _

end Sys2Proof.Machine
end

section
/-! SUPPORT. The target set of a verdict, the rewrites of step 9 and learning (2.3, 2.4, 3.2): the law that every target set
meets, one law per verdict, what a rewrite leaves, and one law per entry that learning finds; and the statements that follow
from these laws. -/

namespace Sys2Proof.Machine

open Sys2Proof.Safety

variable {s : State} {p q : Port} {dest : Word} {a : Action}

/-! ## Target sets (R41 to R44) -/

/-- What every target set meets beside `verdictTargets_active`: never the arrival port, none twice, and a charge exactly
when empty. -/
structure LawfulTargets (p : Port) (t : Targets) : Prop where
  notArrival : p ∉ t.ports
  nodup : t.ports.Nodup
  charge : t.ports = [] ↔ t.charge.isSome = true

theorem isActive_iff : s.isActive q = true ↔ (s.port q).state = .active := decide_eq_true_iff

theorem mem_allPorts (p : Port) : p ∈ allPorts := by cases p <;> decide

theorem allPorts_nodup : allPorts.Nodup := by decide

theorem mem_floodTargets : q ∈ floodTargets s p ↔ q ≠ p ∧ (s.port q).state = .active := by
  unfold floodTargets
  rw [List.mem_filter, Bool.and_eq_true, decide_eq_true_iff, isActive_iff]
  exact ⟨fun h => h.2, fun h => ⟨mem_allPorts q, h⟩⟩

/-- A set charged by its emptiness, whatever counter it then charges. -/
theorem charge_iff_empty (l : List Port) (c : Counter) :
    l = [] ↔ (if l.isEmpty then some c else none).isSome = true := by
  cases l <;> simp

theorem lawful_empty (p : Port) (c : Counter) : LawfulTargets p ⟨[], some c⟩ :=
  ⟨List.not_mem_nil, List.nodup_nil, Iff.intro (fun _ => rfl) (fun _ => rfl)⟩

theorem lawful_floodTo (s : State) (p : Port) : LawfulTargets p (floodTo s p) where
  notArrival := fun h => (mem_floodTargets.mp h).1 rfl
  nodup := allPorts_nodup.sublist List.filter_sublist
  charge := charge_iff_empty _ _

/-- The target set of one port, in its three cases (R42, R43). -/
theorem soleTarget_arrival (s : State) (p : Port) : soleTarget s p p = ⟨[], some .rxLocal⟩ := if_pos rfl

theorem soleTarget_inactive (h : q ≠ p) (hq : (s.port q).state ≠ .active) : soleTarget s p q = ⟨[], some .rxUnreach⟩ := by
  unfold soleTarget
  rw [if_neg h, if_neg (fun ha => hq (isActive_iff.mp ha))]

theorem soleTarget_other (h : q ≠ p) (hq : (s.port q).state = .active) : soleTarget s p q = ⟨[q], none⟩ := by
  unfold soleTarget
  rw [if_neg h, if_pos (isActive_iff.mpr hq)]

theorem lawful_soleTarget (s : State) (p q : Port) : LawfulTargets p (soleTarget s p q) := by
  by_cases h : q = p
  · rw [h, soleTarget_arrival]
    exact lawful_empty p _
  · by_cases hq : (s.port q).state = .active
    · rw [soleTarget_other h hq]
      exact ⟨fun hmem => h (List.mem_singleton.mp hmem).symm, List.pairwise_singleton _ q, by simp⟩
    · rw [soleTarget_inactive h hq]
      exact lawful_empty p _

/-- A PASS goes to the port of a known station, and else to every other ACTIVE port (R43). -/
theorem resolve_known {e : StationEntry} (h : isStation dest = true) (he : s.station dest = some e) :
    resolve s p dest = soleTarget s p e.port := by
  unfold resolve
  rw [if_pos h, he]

theorem resolve_unknown (h : isStation dest = false ∨ s.station dest = none) : resolve s p dest = floodTo s p := by
  unfold resolve
  rcases h with h | h
  · rw [h]
    rfl
  · rw [h, ite_self]

theorem lawful_resolve (s : State) (p : Port) (dest : Word) : LawfulTargets p (resolve s p dest) := by
  unfold resolve
  split
  · split
    · exact lawful_soleTarget s p _
    · exact lawful_floodTo s p
  · exact lawful_floodTo s p

/-- A port limit narrows a set that is not empty (R44). -/
theorem narrow_of_empty {limit : BitVec 5} {t : Targets} (h : limit = 0 ∨ t.ports = []) : narrow limit t = t := if_pos h

theorem narrow_of_limit {limit : BitVec 5} {t : Targets} (h : limit ≠ 0) (ht : t.ports ≠ []) :
    narrow limit t =
      ⟨t.ports.filter (fun q => inPortSet q limit),
        if (t.ports.filter (fun q => inPortSet q limit)).isEmpty then some .rxRuleDrop else none⟩ :=
  if_neg (fun hor => hor.elim h ht)

theorem LawfulTargets.narrow {t : Targets} (h : LawfulTargets p t) (limit : BitVec 5) :
    LawfulTargets p (narrow limit t) := by
  by_cases hl : limit = 0 ∨ t.ports = []
  · rw [narrow_of_empty hl]
    exact h
  · obtain ⟨hlimit, hports⟩ := not_or.mp hl
    rw [narrow_of_limit hlimit hports]
    exact ⟨fun hmem => h.notArrival ((List.mem_filter.mp hmem).1), h.nodup.sublist List.filter_sublist, charge_iff_empty _ _⟩

theorem verdictTargets_pass (hv : a.verdict = .pass) (s : State) (p : Port) (dest : Word) :
    verdictTargets s p dest a = narrow a.portLimit (resolve s p dest) := by
  unfold verdictTargets
  rw [hv]

theorem verdictTargets_steer (hv : a.verdict = .steer) (hq : a.steerPort.toNat = portNumber q) (s : State) (p : Port)
    (dest : Word) : verdictTargets s p dest a = soleTarget s p q := by
  unfold verdictTargets
  rw [hv, hq, portOf_portNumber]

theorem lawful_verdictTargets (s : State) (p : Port) (dest : Word) (a : Action) :
    LawfulTargets p (verdictTargets s p dest a) := by
  unfold verdictTargets
  split
  · exact lawful_empty p _
  · split
    · exact lawful_empty p _
    · exact lawful_soleTarget s p _
  · exact (lawful_resolve s p dest).narrow _

/-- The copy goes to the header's observation port, where it is ACTIVE, not the arrival port and no target (R48). -/
theorem copyTarget_some {d : Decision} {ports : List Port} {o : Port} :
    copyTarget s p d ports = some o ↔
      d.action.copy = true ∧ d.observation = some o ∧ (s.port o).state = .active ∧ o ≠ p ∧ o ∉ ports := by
  unfold copyTarget
  cases hc : d.action.copy with
  | false => simp
  | true =>
    cases ho : d.observation with
    | none => simp
    | some r =>
      simp only [if_true, isActive_iff, Option.some.injEq, true_and]
      split
      next h => exact ⟨fun hr => by cases hr; exact ⟨rfl, h⟩, fun hr => congrArg some hr.1⟩
      next h => exact ⟨nofun, fun ⟨hr, ho⟩ => absurd ho (hr ▸ h)⟩

/-- Settles O23: the law of target sets, and the conditions of the copy. -/
theorem targetSetLaws : Obligations.TargetSetLaws := by
  unfold Obligations.TargetSetLaws
  intro s p dest a
  obtain ⟨hself, hnodup, hcharge⟩ := lawful_verdictTargets s p dest a
  refine ⟨hself, fun q hq => isActive_iff.mp (verdictTargets_active s p dest a q hq), hnodup, hcharge, fun d ports o h => ?_⟩
  obtain ⟨hcopy, hobservation, hstate, hne, hfresh⟩ := copyTarget_some.mp h
  exact ⟨hne, hstate, hfresh, hcopy, hobservation⟩

/-- Settles O24, verdict by verdict. -/
theorem verdictTable : Obligations.VerdictTable := by
  unfold Obligations.VerdictTable
  intro s p dest a
  refine ⟨fun hv => verdictTargets_of_drop hv s p dest, fun q hv hq => ?steer, fun hv hl => ⟨fun e hs he => ?known,
    fun hunknown => ?unknown⟩, fun hv hl => ?limit⟩
  case steer =>
    rw [verdictTargets_steer hv hq]
    exact ⟨fun h => h ▸ soleTarget_arrival s _, soleTarget_inactive, soleTarget_other⟩
  case known =>
    rw [verdictTargets_of_pass_without_limit hv hl, resolve_known hs he]
    exact ⟨fun h => h ▸ soleTarget_arrival s _, soleTarget_inactive, soleTarget_other⟩
  case unknown =>
    rw [verdictTargets_of_pass_without_limit hv hl, resolve_unknown hunknown]
    refine ⟨fun q => mem_floodTargets, fun hempty => ?_⟩
    have : floodTargets s p = [] := hempty
    show (if (floodTargets s p).isEmpty then some Counter.rxUnreach else none) = _
    rw [this]
    rfl
  case limit =>
    dsimp only
    rw [verdictTargets_pass hv, verdictTargets_of_pass_without_limit (a := { a with portLimit := 0 }) hv rfl]
    by_cases hports : (resolve s p dest).ports = []
    · rw [narrow_of_empty (.inr hports), hports]
      exact ⟨fun q => by simp, fun _ => rfl, fun h => absurd rfl h⟩
    · rw [narrow_of_limit hl hports]
      refine ⟨fun q => List.mem_filter, fun h => absurd h hports, fun _ hempty => ?_⟩
      dsimp only at hempty ⊢
      rw [hempty]
      rfl

/-! ## Rewrites (R45, R46) -/

theorem rewrite_of_drop (h : a.verdict = .drop) (f : Frame) :
    rewrite a f = ({ f with hops := f.hops - 1 }).recheck := by
  unfold rewrite
  rw [if_pos h]

theorem rewrite_of_sent (h : a.verdict ≠ .drop) (f : Frame) :
    rewrite a f =
      ({ f with
        cls := if a.classPresent then a.classValue.setWidth 2 else f.cls
        tag := tagAfter a f.tag
        hops := f.hops - 1 }).recheck := by
  unfold rewrite
  rw [if_neg h]

/-- Settles O25: the two forms of the rewrite. -/
theorem rewriteTable : Obligations.RewriteTable := by
  unfold Obligations.RewriteTable
  intro a f
  dsimp only
  by_cases h : a.verdict = .drop
  · rw [rewrite_of_drop h]
    exact ⟨rfl, rfl, rfl, rfl, rfl, rfl, recheck_check _, fun _ => ⟨rfl, rfl⟩, fun hne => absurd h hne⟩
  · rw [rewrite_of_sent h]
    refine ⟨rfl, rfl, rfl, rfl, rfl, rfl, recheck_check _, fun hd => absurd hd h, fun _ => ⟨fun hc => ?_, fun hc => ?_, fun ht => ?_,
      fun ht => ?_, fun ht => ?_⟩⟩
    · exact if_pos hc
    · exact if_neg (by simp [hc])
    all_goals
      show tagAfter a f.tag = _
      unfold tagAfter
      rw [ht]

end Sys2Proof.Machine
end

section
/-! SUPPORT. Learning (3.2): what it answers for each entry of the source, what it leaves as it was; and the statement that
collects these laws. -/

namespace Sys2Proof.Machine

open Sys2Proof.Safety

variable {s : State} {a b : Word} {p q : Port} {age : Nat}

/-! ## One law per entry of the source -/

theorem learn_new (h : s.station a = none) (hroom : s.stations.entries.length < Config.stationCapacity) :
    s.learn a p = (.goOn, s.writeLearned a p) := by
  have hroom : s.tableFull = false := decide_eq_false (Nat.not_le.mpr hroom)
  unfold State.learn
  rw [h]
  simp only [hroom, Bool.false_eq_true, if_false]

theorem learn_full (h : s.station a = none) (hfull : Config.stationCapacity ≤ s.stations.entries.length) :
    s.learn a p = (.goOn, s.raise .stationFull a) := by
  have hfull : s.tableFull = true := decide_eq_true hfull
  unfold State.learn
  rw [h]
  simp only [hfull, if_true]

theorem learn_known (h : s.station a = some ⟨p, .learned age⟩) : s.learn a p = (.goOn, s.writeLearned a p) := by
  unfold State.learn
  rw [h]
  exact if_pos rfl

theorem learn_moved (hq : q ≠ p) (h : s.station a = some ⟨q, .learned age⟩) :
    s.learn a p = (.goOn, (s.writeLearned a p).countMove a) := by
  unfold State.learn
  rw [h]
  exact if_neg hq

theorem learn_pinned (h : s.station a = some ⟨p, .pinned⟩) : s.learn a p = (.goOn, s) := by
  unfold State.learn
  rw [h]
  exact if_pos rfl

theorem learn_guard (hq : q ≠ p) (h : s.station a = some ⟨q, .pinned⟩) : s.learn a p = (.guard, s) := by
  unfold State.learn
  rw [h]
  exact if_neg hq

/-- What learning leaves of the part, in its four ways. -/
theorem learn_state_cases (s : State) (a : Word) (p : Port) :
    (s.learn a p).2 = s ∨ (s.learn a p).2 = s.raise .stationFull a ∨ (s.learn a p).2 = s.writeLearned a p ∨
      (s.learn a p).2 = (s.writeLearned a p).countMove a := by
  unfold State.learn
  split
  · split
    · exact .inr (.inl rfl)
    · exact .inr (.inr (.inl rfl))
  · split
    · split <;> exact .inl rfl
    · split
      · exact .inr (.inr (.inl rfl))
      · exact .inr (.inr (.inr rfl))

/-! ## The table and the sources -/

theorem station_writeLearned_self (s : State) (a : Word) (p : Port) :
    (s.writeLearned a p).station a = some ⟨p, .learned s.stations.ageLimit⟩ := lookup_put_self _ _ _

theorem station_writeLearned_other (s : State) (p : Port) (h : b ≠ a) : (s.writeLearned a p).station b = s.station b :=
  lookup_put_other (fun heq => h (BitVec.eq_of_toNat_eq heq)) _ _

/-- A move is counted, saturating at 255. -/
def countedMove (s : State) : State :=
  { s with stations := { s.stations with moveCount := satNext 255 s.stations.moveCount } }

theorem countMove_storm (h : s.stations.threshold ≤ satNext 255 s.stations.moveCount ∧ s.stations.storm = false) :
    s.countMove a =
      ({ countedMove s with stations := { (countedMove s).stations with storm := true } } : State).raise .moveStorm a :=
  if_pos h

theorem countMove_calm (h : ¬ (s.stations.threshold ≤ satNext 255 s.stations.moveCount ∧ s.stations.storm = false)) :
    s.countMove a = countedMove s := if_neg h

/-- A counted move leaves the entries, the limit and the threshold. -/
theorem countMove_table (s : State) (a : Word) :
    (s.countMove a).stations.entries = s.stations.entries ∧
      (s.countMove a).stations.moveCount = satNext 255 s.stations.moveCount := by
  by_cases h : s.stations.threshold ≤ satNext 255 s.stations.moveCount ∧ s.stations.storm = false
  · rw [countMove_storm h]
    exact ⟨rfl, rfl⟩
  · rw [countMove_calm h]
    exact ⟨rfl, rfl⟩

theorem station_countMove (s : State) (a b : Word) : (s.countMove a).station b = s.station b :=
  congrArg (lookup b.toNat) (countMove_table s a).1

/-- Beside the table learning writes the notice sources alone, and makes a service event due. -/
def LearnFrame (s t : State) : Prop :=
  t =
    { s with
      stations := t.stations
      notices := { s.notices with sources := t.notices.sources, causeDue := t.notices.causeDue } } ∧
  ∀ r, r ≠ .moveStorm → r ≠ .stationFull → t.source r = s.source r

theorem countMove_frame (s : State) (a : Word) : LearnFrame s (s.countMove a) := by
  by_cases h : s.stations.threshold ≤ satNext 255 s.stations.moveCount ∧ s.stations.storm = false
  · rw [countMove_storm h]
    exact ⟨rfl, fun r hr _ => State.source_raise_other _ hr a⟩
  · rw [countMove_calm h]
    exact ⟨rfl, fun _ _ _ => rfl⟩

theorem learn_frame (s : State) (a : Word) (p : Port) : LearnFrame s (s.learn a p).2 := by
  rcases learn_state_cases s a p with h | h | h | h <;> rw [h]
  · exact ⟨rfl, fun _ _ _ => rfl⟩
  · exact ⟨rfl, fun r _ hr => State.source_raise_other _ hr a⟩
  · exact ⟨rfl, fun _ _ _ => rfl⟩
  · have hmove := countMove_frame (s.writeLearned a p) a
    generalize (s.writeLearned a p).countMove a = t at hmove ⊢
    refine ⟨?_, hmove.2⟩
    rw [hmove.1]
    rfl

theorem station_learn_other (s : State) (p : Port) (h : b ≠ a) : (s.learn a p).2.station b = s.station b := by
  rcases learn_state_cases s a p with he | he | he | he <;> rw [he]
  · rfl
  · exact station_writeLearned_other s p h
  · rw [station_countMove]
    exact station_writeLearned_other s p h

/-- Settles O22, entry by entry. -/
theorem learningRules : Obligations.LearningRules := by
  unfold Obligations.LearningRules
  intro s a p
  refine ⟨fun h hroom => ?_, fun h hfull => learn_full h hfull, fun age h => ?_, fun q age hq h => ?_, learn_pinned,
    fun q => learn_guard, fun b => station_learn_other s p, (learn_frame s a p).1, (learn_frame s a p).2⟩
  · rw [learn_new h hroom]
    exact ⟨rfl, station_writeLearned_self s a p, rfl⟩
  · rw [learn_known h]
    exact ⟨rfl, station_writeLearned_self s a p, rfl⟩
  · rw [learn_moved hq h]
    refine ⟨rfl, (station_countMove _ a a).trans (station_writeLearned_self s a p), (countMove_table _ a).2, fun hstorm => ?_,
      fun hcalm => ?_⟩
    · rw [(countMove_table _ a).2] at hstorm
      dsimp only
      rw [countMove_storm (s := s.writeLearned a p) hstorm]
      exact ⟨rfl, State.source_raise_self _ _ _⟩
    · rw [(countMove_table _ a).2] at hcalm
      dsimp only
      rw [countMove_calm (s := s.writeLearned a p) hcalm]
      exact ⟨rfl, rfl⟩

end Sys2Proof.Machine
end

section
/-! SUPPORT. The timers' expiries (R60, R61, R77, R124, R126, R132, R152, R191, R192): the next state of each event; and the
statements that follow. -/

namespace Sys2Proof.Machine

open Sys2Proof.Safety

variable {s : State} {p : Port}

/-! ## The claim, the lock, a blocked port and the windows -/

theorem exec_claimExpiry {c : Claim} (h : s.device.resetHeld = false) (hc : s.agent.claim = some c) :
    exec .claimExpiry s = .next ((s.setClaim none).raise .claimExpired c.holder) := by
  refine congrArg Host.Outcome.next ((if_pos h).trans ?_)
  rw [hc]

theorem exec_syncTimerExpiry (h : s.device.resetHeld = false) (hl : s.sync.locked = true) :
    exec .syncTimerExpiry s = .next (s.loseSync 0) := congrArg Host.Outcome.next (if_pos ⟨h, hl⟩)

theorem exec_blockTimerExpiry (h : s.device.resetHeld = false) (hp : (s.port p).state = .blocked) :
    exec (.blockTimerExpiry p) s = .next
      (s.setPort p { s.port p with state := (s.port p).commanded.toState, blockTimer := none, receiver := .idle }) :=
  congrArg Host.Outcome.next (if_pos ⟨h, hp⟩)

/-- The GATED meters' periods stop when an OPEN gate closes (R79). -/
theorem setGate_close (h : s.meters.gateOpen = true) :
    s.setGate false =
      { s with
        meters := ⟨s.meters.meters.map (fun m => if m.mode = .gated then { m with timer := none } else m), false⟩ } := by
  unfold State.setGate
  rw [if_neg (by rw [h]; exact nofun)]
  rfl

/-- The whole part after the loss of a LOCKED lock (R132, R133). -/
theorem loseSync_eq (hgate : s.meters.gateOpen = true) (detail : Word) :
    s.loseSync detail =
      { s with
        sync := { s.sync with locked := false, timer := none }
        meters := ⟨s.meters.meters.map (fun m => if m.mode = .gated then { m with timer := none } else m), false⟩
        notices :=
          { s.notices with
            causeDue := true
            sources := s.notices.sources.set .syncLost
              { s.source .syncLost with
                pending := true
                occurrences := min 255 ((s.source .syncLost).occurrences + 1)
                detail := detail } } } := by
  unfold State.loseSync
  refine Eq.trans (setGate_close ?_) ?_
  · exact hgate
  · rw [← occur_eq]
    rfl

/-- Settles O35, expiry by expiry. -/
theorem timersExpire : Obligations.TimersExpire := by
  unfold Obligations.TimersExpire
  refine ⟨fun s c hlow hc => ?_, fun s hlow hlocked hgate => ?_, fun s p hlow hblocked => ?_,
    fun s p hlow => congrArg Host.Outcome.next (if_pos hlow), fun s hlow => congrArg Host.Outcome.next (if_pos hlow)⟩
  · rw [exec_claimExpiry hlow hc, ← occur_eq]
    rfl
  · rw [exec_syncTimerExpiry hlow hlocked, loseSync_eq hgate]
  · refine ⟨_, exec_blockTimerExpiry hlow hblocked, ?_, ?_, fun hl => ?_, fun ha => ?_⟩
    · rw [State.port_setPort_self]
      rfl
    · rw [State.port_setPort_self]
    · rw [State.port_setPort_self, hl]
      rfl
    · rw [State.port_setPort_self, ha]
      rfl

/-! ## The aging tick (R61) -/

/-- An aging tick looks at each entry by itself. -/
theorem lookup_filterMap_ageEntry {l : List (Nat × StationEntry)} (hr : rising l = true) (k : Nat) :
    lookup k (l.filterMap ageEntry) = (lookup k l).bind (fun e => (ageEntry (k, e)).map Prod.snd) := by
  induction l with
  | nil => rfl
  | cons e rest ih =>
    obtain ⟨j, x⟩ := e
    have ih := ih (rising_tail hr)
    rw [lookup_cons]
    cases haged : ageEntry (j, x) with
    | none =>
      rw [List.filterMap_cons_none haged, ih]
      split
      next hj =>
        subst hj
        rw [lookup_eq_none_of_lt (rising_cons_lt hr), Option.bind_some, haged]
        rfl
      next => rfl
    | some e' =>
      obtain ⟨j', y⟩ := e'
      have hkey : j' = j := ageEntry_key haged
      subst hkey
      rw [List.filterMap_cons_some haged, lookup_cons, ih]
      split
      next hj =>
        subst hj
        rw [Option.bind_some, haged]
        rfl
      next => rfl

theorem exec_agingTick (h : s.device.resetHeld = false) :
    exec .agingTick s = .next
      { s with stations := { s.stations with entries := s.stations.entries.filterMap ageEntry, agingClock := 1000 } } :=
  congrArg Host.Outcome.next (if_pos h)

/-- Settles O36, entry by entry. -/
theorem agingTick : Obligations.AgingTick := by
  unfold Obligations.AgingTick
  intro s hlow hok
  refine ⟨_, exec_agingTick hlow, rfl, fun a h => ?_, fun a q h => ?_, fun a q h => ?_, fun a q age h => ?_⟩
  all_goals
    unfold State.station at h ⊢
    rw [lookup_filterMap_ageEntry hok.1, h]
    rfl

/-! ## A meter's period and a resend timer -/

/-- Settles O37. -/
theorem periodExpiry : Obligations.PeriodExpiry := by
  unfold Obligations.PeriodExpiry
  intro s n
  refine ⟨fun hn hlow htimer => ?_, fun hn => ?_⟩
  · show (if meterOk n = true then _ else _) = _
    rw [if_pos (show meterOk n = true from decide_eq_true hn), if_pos ⟨hlow, htimer⟩]
    rfl
  · have hbad : meterOk n = false := decide_eq_false (Nat.not_lt.mpr hn)
    show (if meterOk n = true then _ else _) = _
    rw [hbad]
    rfl

/-- Settles O38: attempts below 4 and attempt 4. -/
theorem resendTimerExpiry : Obligations.ResendTimerExpiry := by
  unfold Obligations.ResendTimerExpiry
  intro s q x ms hlow htimer hrecord
  have hruns : s.device.resetHeld = false ∧ (s.source q).timer.isSome = true := ⟨hlow, by rw [htimer]; rfl⟩
  refine ⟨fun hlow4 => ?_, fun h4 => ?_⟩
  · refine congrArg Host.Outcome.next ((if_pos hruns).trans ?_)
    simp only [hrecord, if_pos hlow4]
    rfl
  · refine congrArg Host.Outcome.next ((if_pos hruns).trans ?_)
    simp only [hrecord, if_neg (show ¬ x.attempt < 4 by omega)]
    rfl

end Sys2Proof.Machine
end

section
/-! SUPPORT. The Agent's own commands (8.2, 8.3): one law for what each answers once its form and its claim have passed;
and the statements that collect the answers. -/

namespace Sys2Proof.Machine

open Sys2Proof.Safety

variable {s : State} {r : Request} {f : Frame} {payload : List Byte}

theorem identifyCommand_ok (hform : formOk payload 0 = true) :
    identifyCommand r payload s =
      ⟨.ok, ([0x2D, 0x0B, 0x51, 1] : List Byte) ++ wordBytes s.agent.address ++ byte s.agent.restartCount, s⟩ :=
  withForm_ok hform

theorem readStatusCommand_ok (hform : formOk payload 0 = true) :
    readStatusCommand r payload s = ⟨.ok, statusRecord s, s⟩ := withForm_ok hform

/-- Settles O40: both commands answer their record and the part as it was. -/
theorem identifyAndReadStatus : Obligations.IdentifyAndReadStatus := by
  unfold Obligations.IdentifyAndReadStatus
  intro s r f he
  have hrun : s.device.state = .running := (Executing_running he).1
  refine ⟨fun hasks => ?_, fun hasks => ?_⟩
  · exact completes he rfl (isCommand_of_asks hasks) (identifyCommand_ok hasks.2) hrun
  · refine completes he rfl (isCommand_of_asks hasks) ((readStatusCommand_ok hasks.2).trans ?_) hrun
    unfold statusRecord
    rw [hrun]
    rfl

/-! ## The claim and the address -/

theorem claimCommand_zero (hform : formOk payload 1 = true) (h : argByte payload 0 = 0) :
    claimCommand r payload s = refuse .badArg s := (withForm_ok hform).trans (if_pos h)

/-- A claim that no other station holds is granted or renewed (R150). -/
theorem claimCommand_granted (hform : formOk payload 1 = true) (h : argByte payload 0 ≠ 0)
    (hfree : ∀ c, s.agent.claim = some c → c.holder = r.source) :
    claimCommand r payload s =
      ⟨.ok, wordBytes r.source ++ byte (argByte payload 0),
        s.setClaim (some ⟨r.source, argByte payload 0, argByte payload 0 * 1000⟩)⟩ := by
  refine ((withForm_ok hform).trans (if_neg h)).trans ?_
  cases hc : s.agent.claim with
  | none => rfl
  | some c => exact if_pos (hfree c hc)

theorem claimCommand_held {c : Claim} (hform : formOk payload 1 = true) (h : argByte payload 0 ≠ 0)
    (hc : s.agent.claim = some c) (hother : c.holder ≠ r.source) :
    claimCommand r payload s = ⟨.held, wordBytes c.holder ++ byte (secondsUp c.remaining), s⟩ := by
  refine ((withForm_ok hform).trans (if_neg h)).trans ?_
  rw [hc]
  exact if_neg hother

theorem releaseCommand_ok (hform : formOk payload 0 = true) :
    releaseCommand r payload s = if holdsClaim s r.source then ⟨.ok, [], s.setClaim none⟩ else refuse .notHolder s :=
  withForm_ok hform

theorem setAddressCommand_ok (h : Holder s r) (hform : formOk payload 2 = true) :
    setAddressCommand r payload s =
      if isStation (argWord payload 0) then ⟨.ok, [], { s with agent := { s.agent with address := argWord payload 0 } }⟩
      else refuse .badArg s := (withClaim_holder h).trans (withForm_ok hform)

/-- Settles O41, answer by answer. -/
theorem claimReleaseAddress : Obligations.ClaimReleaseAddress := by
  unfold Obligations.ClaimReleaseAddress
  intro s r f he
  have hrun : s.device.state = .running := (Executing_running he).1
  refine ⟨fun hasks => ⟨fun hzero => ?_, fun hd hfree => ?_, fun c hd hc hother => ?_⟩,
    fun hasks => ⟨fun hholder => ?_, fun hother => ?_⟩, fun hasks hholder => ⟨fun ha => ?_, fun ha => ?_⟩⟩
  · exact completes he rfl (isCommand_of_asks hasks) (claimCommand_zero hasks.2 hzero) hrun
  · exact completes he rfl (isCommand_of_asks hasks) (claimCommand_granted hasks.2 hd hfree) hrun
  · exact completes he rfl (isCommand_of_asks hasks) (claimCommand_held hasks.2 hd hc hother) hrun
  · exact completes he rfl (isCommand_of_asks hasks) ((releaseCommand_ok hasks.2).trans (if_pos hholder)) hrun
  · exact completes he rfl (isCommand_of_asks hasks) ((releaseCommand_ok hasks.2).trans (if_neg hother)) hrun
  · exact completes he rfl (isCommand_of_asks hasks) ((setAddressCommand_ok hholder hasks.2).trans (if_pos ha)) hrun
  · exact completes he rfl (isCommand_of_asks hasks)
      ((setAddressCommand_ok hholder hasks.2).trans (if_neg (by simp [ha]))) hrun

end Sys2Proof.Machine
end

section
/-! SUPPORT. The commands on one bank and on both (8.5): the bank header and the bank byte by their numbers, one law for what
each command answers once its claim and its form have passed; and the statements that collect the answers. -/

namespace Sys2Proof.Machine

open Sys2Proof.Safety

variable {s : State} {r : Request} {f : Frame} {payload : List Byte}

/-! ## Headers and banks by their numbers (R213, R214) -/

theorem headerOf_ofNat (h : Header) : headerOf (BitVec.ofNat 8 (headerCode h)) = some h := by
  obtain ⟨v, o⟩ := h
  cases v <;> cases o with
  | none => rfl
  | some p => cases p <;> rfl

theorem headerOf_of_code {b : Byte} {h : Header} (hb : b.toNat = headerCode h) : headerOf b = some h := by
  rw [← headerOf_ofNat h, ← hb, BitVec.ofNat_toNat, BitVec.setWidth_eq]

theorem headerCode_of_some {b : Byte} {h : Header} (hb : headerOf b = some h) : b.toNat = headerCode h := by
  have hall : ∀ b : Byte, (headerOf b).all (fun h => decide (b.toNat = headerCode h)) = true := by decide
  have := hall b
  rw [hb] at this
  exact of_decide_eq_true this

theorem headerByte_eq (h : Header) : [headerByte h] = byte (headerCode h) := by
  obtain ⟨v, o⟩ := h
  cases v <;> cases o with
  | none => rfl
  | some p => cases p <;> rfl

theorem bankOf_bankCode (name : BankName) : bankOf (bankCode name) = some name := by cases name <;> rfl

theorem readRuleBankByte_eq (working read : BankName) (occupied : Bool) :
    [readRuleBankByte working read occupied] =
      byte (bankCode working + 2 * bankCode read + (if occupied then 4 else 0)) := by
  cases working <;> cases read <;> cases occupied <;> rfl

/-! ## The answers -/

/-- A WRITE_RULE whose form, with the bytes its record calls for, is right. -/
theorem writeRuleCommand_ok (h : Holder s r) (hthree : formOk payload 3 = true)
    (hform : formOk payload (1 + recordLength ((arguments payload).drop 1)) = true) :
    writeRuleCommand r payload s =
      if s.rules.copying then refuse .busy s
      else if positionOk (argByte payload 0) && recordReservedClear ((arguments payload).drop 1) then
        match readRuleRecord ((arguments payload).drop 1) with
        | .error d => ⟨.badRule, byte d.code ++ byte d.index, s⟩
        | .ok rule =>
          ⟨.ok, byte (bankCode s.rules.standby) ++ byte (argByte payload 0),
            s.setStandby
              { s.standbyBank with positions := put (argByte payload 0) ⟨rule, 0⟩ s.standbyBank.positions }⟩
      else refuse .badArg s := (withClaim_holder h).trans (if_pos (by rw [hthree, hform]; rfl))

theorem clearRuleCommand_ok (h : Holder s r) (hform : formOk payload 1 = true) :
    clearRuleCommand r payload s =
      if s.rules.copying then refuse .busy s
      else if argByte payload 0 = 0xFF then
        ⟨.ok, byte (bankCode s.rules.standby) ++ byte s.standbyBank.positions.length,
          s.setStandby { s.standbyBank with positions := [] }⟩
      else if positionOk (argByte payload 0) then
        ⟨.ok, byte (bankCode s.rules.standby) ++ byte (bit (lookup (argByte payload 0) s.standbyBank.positions).isSome),
          s.setStandby { s.standbyBank with positions := remove (argByte payload 0) s.standbyBank.positions }⟩
      else refuse .badArg s := (withClaim_holder h).trans (withForm_ok hform)

/-- The byte that spells the new header. -/
theorem writeBankHeadCommand_ok (h : Holder s r) (hform : formOk payload 1 = true) :
    writeBankHeadCommand r payload s =
      if s.rules.copying then refuse .busy s
      else
        match headerOf (byteAt (arguments payload) 0) with
        | none => refuse .badArg s
        | some h => ⟨.ok, byte (bankCode s.rules.standby), s.setStandby { s.standbyBank with header := h }⟩ :=
  (withClaim_holder h).trans (withForm_ok hform)

theorem writeBankHeadCommand_header {h : Header} (hh : Holder s r) (hform : formOk payload 1 = true)
    (hidle : s.rules.copying = false) (hcode : argByte payload 0 = headerCode h) :
    writeBankHeadCommand r payload s =
      ⟨.ok, byte (bankCode s.rules.standby), s.setStandby { s.standbyBank with header := h }⟩ := by
  rw [writeBankHeadCommand_ok hh hform, hidle, headerOf_of_code (show (byteAt (arguments payload) 0).toNat = _ from hcode)]
  rfl

theorem writeBankHeadCommand_bad (hh : Holder s r) (hform : formOk payload 1 = true) (hidle : s.rules.copying = false)
    (hcode : ∀ h, argByte payload 0 ≠ headerCode h) : writeBankHeadCommand r payload s = refuse .badArg s := by
  have hnone : headerOf (byteAt (arguments payload) 0) = none := by
    cases hb : headerOf (byteAt (arguments payload) 0) with
    | none => rfl
    | some h => exact absurd (headerCode_of_some hb) (hcode h)
  rw [writeBankHeadCommand_ok hh hform, hidle, hnone]
  rfl

theorem readRuleCommand_bank {name : BankName} (hform : formOk payload 2 = true)
    (hname : argByte payload 0 = bankCode name) :
    readRuleCommand r payload s =
      if positionOk (argByte payload 1) then
        if name = s.rules.standby ∧ s.rules.copying then refuse .busy s
        else
          ⟨.ok,
            byte (bankCode s.rules.working + 2 * bankCode name +
              (if (lookup (argByte payload 1) (s.rules.bank name).positions).isSome then 4 else 0)) ++
              byte (argByte payload 1) ++ byte (headerCode (s.rules.bank name).header) ++
              (match lookup (argByte payload 1) (s.rules.bank name).positions with
                | none => [0, 0, 0, 0]
                | some y => countBytes y.hits ++ ruleBytes y.rule), s⟩
      else refuse .badArg s := by
  refine (withForm_ok hform).trans ?_
  rw [hname, bankOf_bankCode, ← readRuleBankByte_eq, ← headerByte_eq]
  rfl

theorem copyBankCommand_ok (h : Holder s r) (hform : formOk payload 0 = true) :
    copyBankCommand r payload s =
      if s.rules.copying then refuse .busy s
      else ⟨.ok, byte (bankCode s.rules.standby), { s with rules := { s.rules with copying := true } }⟩ :=
  (withClaim_holder h).trans (withForm_ok hform)

theorem switchBankCommand_ok (h : Holder s r) (hform : formOk payload 2 = true) :
    switchBankCommand r payload s =
      if s.rules.copying then refuse .busy s
      else if argWord payload 0 ≠ s.rules.generation then refuse .stale s
      else
        ⟨.ok, byte (bankCode s.rules.standby),
          { s with rules := { s.rules with working := s.rules.standby, generation := s.rules.generation + 1 } }⟩ :=
  (withClaim_holder h).trans (withForm_ok hform)

theorem otherBank_ne (name : BankName) : otherBank name ≠ name := by cases name <;> exact nofun

/-- Settles O43, command by command. -/
theorem ruleCommands : Obligations.RuleCommands := by
  unfold Obligations.RuleCommands
  intro s r f he
  have hrun : s.device.state = .running := (Executing_running he).1
  refine ⟨fun hidle => ⟨fun hasks hform hholder => ?write, fun hasks hholder => ?clear, fun hasks hholder => ?head⟩,
    fun hasks bank hbank => ?read⟩
  all_goals have hmine := isCommand_of_asks hasks
  case write =>
    have hanswer := (writeRuleCommand_ok hholder hasks.2 hform).trans (if_neg (by rw [hidle]; exact nofun))
    refine ⟨fun hn hclear => ⟨fun rule hrule => ?_, fun d hd => ?_⟩, fun hbad => ?_⟩
    · refine completes he rfl hmine ((hanswer.trans (if_pos ?_)).trans ?_) hrun
      · exact Bool.and_eq_true_iff.mpr ⟨decide_eq_true hn, hclear⟩
      · rw [hrule]
        rfl
    · refine completes he rfl hmine ((hanswer.trans (if_pos ?_)).trans ?_) hrun
      · exact Bool.and_eq_true_iff.mpr ⟨decide_eq_true hn, hclear⟩
      · rw [readRuleRecord_error hd]
    · refine completes he rfl hmine (hanswer.trans (if_neg ?_)) hrun
      rw [Bool.and_eq_true]
      rintro ⟨hn, hclear⟩
      rcases hbad with hbad | hbad
      · exact absurd (of_decide_eq_true hn) (Nat.not_lt.mpr hbad)
      · rw [hbad] at hclear
        cases hclear
  case clear =>
    have hanswer := (clearRuleCommand_ok hholder hasks.2).trans (if_neg (by rw [hidle]; exact nofun))
    refine ⟨fun hn => ?_, fun hn => ?_, fun hlow hhigh => ?_⟩
    · exact completes he rfl hmine ((hanswer.trans (if_neg (by omega))).trans (if_pos (decide_eq_true hn))) hrun
    · exact completes he rfl hmine (hanswer.trans (if_pos hn)) hrun
    · refine completes he rfl hmine ((hanswer.trans (if_neg (by omega))).trans (if_neg fun h => ?_)) hrun
      exact absurd (of_decide_eq_true h) (Nat.not_lt.mpr hlow)
  case head =>
    refine ⟨fun h hcode => ?_, fun hcode => ?_⟩
    · exact completes he rfl hmine (writeBankHeadCommand_header hholder hasks.2 hidle hcode) hrun
    · exact completes he rfl hmine (writeBankHeadCommand_bad hholder hasks.2 hidle hcode) hrun
  case read =>
    have hanswer : readRuleCommand r f.payload s = _ := readRuleCommand_bank hasks.2 hbank
    refine ⟨fun hm hbank => ?_, fun hm => ?_⟩
    · refine completes he rfl hmine ((hanswer.trans (if_pos (decide_eq_true hm))).trans (if_neg ?_)) hrun
      rintro ⟨hstandby, hcopying⟩
      rcases hbank with hbank | hbank
      · rw [hbank] at hcopying
        cases hcopying
      · exact otherBank_ne _ (hstandby.symm.trans hbank)
    · exact completes he rfl hmine
        (hanswer.trans (if_neg fun h => absurd (of_decide_eq_true h) (Nat.not_lt.mpr hm))) hrun

/-- Settles O44: the copy's start, the switch, and BUSY before any argument is judged. -/
theorem bankCommands : Obligations.BankCommands := by
  unfold Obligations.BankCommands
  intro s r f he
  have hrun : s.device.state = .running := (Executing_running he).1
  refine ⟨fun hidle hholder => ⟨fun hasks => ?_, fun hasks => ⟨fun hg => ?_, fun hg => ?_⟩⟩, fun hcopying =>
    ⟨fun hholder => ⟨fun hasks => ?_, fun hasks => ?_, fun hasks => ?_, fun hasks => ?_, fun hasks hform => ?_⟩,
      fun hasks hn hbank => ?_⟩⟩
  all_goals have hmine := isCommand_of_asks hasks
  · exact completes he rfl hmine
      ((copyBankCommand_ok hholder hasks.2).trans (if_neg (by rw [hidle]; exact nofun))) hrun
  · exact completes he rfl hmine
      (((switchBankCommand_ok hholder hasks.2).trans (if_neg (by rw [hidle]; exact nofun))).trans (if_neg (Classical.not_not.mpr hg))) hrun
  · exact completes he rfl hmine
      (((switchBankCommand_ok hholder hasks.2).trans (if_neg (by rw [hidle]; exact nofun))).trans (if_pos hg)) hrun
  · exact completes he rfl hmine ((copyBankCommand_ok hholder hasks.2).trans (if_pos hcopying)) hrun
  · exact completes he rfl hmine ((switchBankCommand_ok hholder hasks.2).trans (if_pos hcopying)) hrun
  · exact completes he rfl hmine ((writeBankHeadCommand_ok hholder hasks.2).trans (if_pos hcopying)) hrun
  · exact completes he rfl hmine ((clearRuleCommand_ok hholder hasks.2).trans (if_pos hcopying)) hrun
  · exact completes he rfl hmine ((writeRuleCommand_ok hholder hasks.2 hform).trans (if_pos hcopying)) hrun
  · have hanswer := readRuleCommand_bank (r := r) (s := s) hasks.2 hbank
    exact completes he rfl hmine ((hanswer.trans (if_pos (decide_eq_true hn))).trans (if_pos ⟨rfl, hcopying⟩)) hrun

end Sys2Proof.Machine
end

section
/-! SUPPORT. The commands on the Station Table (8.6): which form of READ_STATION a request is, the records by their fields,
one law for what each command answers once its claim and its form have passed; and the statement that collects the
answers. -/

namespace Sys2Proof.Machine

open Sys2Proof.Safety

variable {s : State} {r : Request} {f : Frame} {payload : List Byte}

/-! ## Forms, ports and records -/

/-- A request of this code is of the form whose other form its first argument byte does not name. -/
theorem isForm_of {code other : Byte} (h : commandCode payload = code) (ho : argByte payload 0 ≠ other.toNat) :
    isForm code other payload = true := by
  have hne : byteAt payload 4 ≠ other := fun heq => ho (by
    unfold argByte arguments
    rw [byteAt_drop, heq])
  unfold isForm isCommand
  simp [h, hne]

theorem portOf_none {n : Nat} (h : 4 < n) : portOf n = none := by
  match n, h with
  | n + 5, _ => rfl

theorem exists_port_of_le {n : Nat} (h : n ≤ 4) : ∃ q, n = portNumber q := by
  match n, h with
  | 0, _ => exact ⟨.t, rfl⟩
  | 1, _ => exact ⟨.b1, rfl⟩
  | 2, _ => exact ⟨.b2, rfl⟩
  | 3, _ => exact ⟨.b3, rfl⟩
  | 4, _ => exact ⟨.b4, rfl⟩

theorem half_toNat (w : Word) : half w.toNat = wordBytes w := by
  unfold half
  rw [BitVec.ofNat_toNat, BitVec.setWidth_eq]

/-- The cap of an age by the new limit (R69). -/
theorem capAge_learned (limit age : Nat) (p : Port) :
    capAge limit ⟨p, .learned age⟩ = ⟨p, .learned (min age limit)⟩ := by
  show (if limit < age then _ else _) = _
  split
  next h => rw [Nat.min_eq_right (Nat.le_of_lt h)]
  next h => rw [Nat.min_eq_left (Nat.not_lt.mp h)]

/-! ## The answers -/

theorem writeStationCommand_port {q : Port} (h : Holder s r) (hform : formOk payload 3 = true)
    (hq : argByte payload 2 = portNumber q) :
    writeStationCommand r payload s =
      if isStation (argWord payload 0) then
        if s.station (argWord payload 0) = none ∧ s.tableFull then refuse .full s
        else
          ⟨.ok, stationBytes (argWord payload 0).toNat ⟨q, .pinned⟩ ++ stationBeforeBytes (s.station (argWord payload 0)),
            s.setEntries (put (argWord payload 0).toNat ⟨q, .pinned⟩ s.stations.entries)⟩
      else refuse .badArg s := by
  refine ((withClaim_holder h).trans (withForm_ok hform)).trans ?_
  rw [hq, portOf_portNumber]

theorem writeStationCommand_noPort (h : Holder s r) (hform : formOk payload 3 = true) (hq : 4 < argByte payload 2) :
    writeStationCommand r payload s = refuse .badArg s := by
  refine ((withClaim_holder h).trans (withForm_ok hform)).trans ?_
  rw [portOf_none hq]

theorem deleteStationCommand_ok (h : Holder s r) (hform : formOk payload 2 = true)
    (ha : isStation (argWord payload 0) = true) :
    deleteStationCommand r payload s =
      match s.station (argWord payload 0) with
      | none => refuse .notFound s
      | some e =>
        ⟨.ok, stationBytes (argWord payload 0).toNat e,
          s.setEntries (remove (argWord payload 0).toNat s.stations.entries)⟩ :=
  ((withClaim_holder h).trans (withForm_ok hform)).trans (if_pos ha)

theorem deleteStationCommand_bad (h : Holder s r) (hform : formOk payload 2 = true)
    (ha : isStation (argWord payload 0) = false) : deleteStationCommand r payload s = refuse .badArg s :=
  ((withClaim_holder h).trans (withForm_ok hform)).trans (if_neg (by rw [ha]; exact nofun))

/-- A flush answers how many entries left. -/
def flushedAnswer (s : State) (l : List (Nat × StationEntry)) : Answer :=
  ⟨.ok, half (s.stations.entries.length - l.length), s.setEntries l⟩

theorem flushStationsCommand_all (h : Holder s r) (hform : formOk payload 1 = true) (ha : argByte payload 0 = 255) :
    flushStationsCommand r payload s = flushedAnswer s (removeLearned s.stations.entries) :=
  ((withClaim_holder h).trans (withForm_ok hform)).trans (if_pos ha)

theorem flushStationsCommand_port {q : Port} (h : Holder s r) (hform : formOk payload 1 = true)
    (hq : argByte payload 0 = portNumber q) :
    flushStationsCommand r payload s = flushedAnswer s (removeLearnedOn q s.stations.entries) := by
  have hne : argByte payload 0 ≠ 255 := by rw [hq]; cases q <;> decide
  refine (((withClaim_holder h).trans (withForm_ok hform)).trans (if_neg hne)).trans ?_
  rw [hq, portOf_portNumber]
  rfl

theorem flushStationsCommand_bad (h : Holder s r) (hform : formOk payload 1 = true) (hlow : 4 < argByte payload 0)
    (hhigh : argByte payload 0 < 255) : flushStationsCommand r payload s = refuse .badArg s := by
  refine (((withClaim_holder h).trans (withForm_ok hform)).trans (if_neg (Nat.ne_of_lt hhigh))).trans ?_
  rw [portOf_none hlow]

theorem readStationAddressCommand_ok (hform : formOk payload 3 = true) (hzero : argByte payload 0 = 0) :
    readStationAddressCommand r payload s =
      if isStation (argWord payload 1) then
        match s.station (argWord payload 1) with
        | none => ⟨.notFound, stationFigures s, s⟩
        | some e => ⟨.ok, stationFigures s ++ stationBytes (argWord payload 1).toNat e, s⟩
      else refuse .badArg s := by
  have hok : stationFormOk payload = true := decide_eq_true (by rw [hzero]; exact Nat.zero_le 1)
  refine (withForm_ok hform).trans ?_
  rw [hok, Bool.true_and] <;> rfl

theorem readStationIndexCommand_ok (hform : formOk payload 3 = true) (hone : argByte payload 0 = 1) :
    readStationIndexCommand r payload s =
      if argHalf payload 1 ≤ 255 then
        ⟨.ok, stationFigures s ++ byte (argHalf payload 1) ++
            byte ((s.stations.entries.drop (argHalf payload 1)).take 6).length ++
            ((s.stations.entries.drop (argHalf payload 1)).take 6).flatMap (fun e => stationBytes e.1 e.2), s⟩
      else refuse .badArg s := by
  have hok : stationFormOk payload = true := decide_eq_true (Nat.le_of_eq hone)
  refine (withForm_ok hform).trans ?_
  rw [hok, Bool.true_and]
  exact ite_congr (propext decide_eq_true_iff) (fun _ => rfl) (fun _ => rfl)

theorem setAgingCommand_ok (h : Holder s r) (hform : formOk payload 3 = true) :
    setAgingCommand r payload s =
      if 1 ≤ argHalf payload 0 ∧ argHalf payload 0 ≤ 4095 ∧ 1 ≤ argByte payload 2 then
        ⟨.ok, half (argHalf payload 0) ++ byte (argByte payload 2) ++
            half (s.stations.entries.countP (fun e => aboveLimit (argHalf payload 0) e.2)),
          { s with stations :=
              { s.stations with
                entries := mapValues (capAge (argHalf payload 0)) s.stations.entries
                ageLimit := argHalf payload 0
                threshold := argByte payload 2 } }⟩
      else refuse .badArg s := (withClaim_holder h).trans (withForm_ok hform)

/-- Settles O45, command by command. -/
theorem stationCommands : Obligations.StationCommands := by
  unfold Obligations.StationCommands
  intro s r f he
  have hrun : s.device.state = .running := (Executing_running he).1
  refine ⟨fun hasks hholder => ?write, fun hasks hholder => ?delete, fun hasks hholder => ?flush,
    fun hasks hzero => ?address, fun hasks hone => ?index, fun hasks hholder => ?aging⟩
  case write =>
    have hmine := isCommand_of_asks hasks
    refine ⟨fun q ha hq => ⟨fun hroom => ?_, fun hnew hfull => ?_⟩, fun hbad => ?_⟩
    · refine completes he rfl hmine
        (((writeStationCommand_port hholder hasks.2 hq).trans (if_pos ha)).trans ((if_neg ?_).trans ?_)) hrun
      · rintro ⟨hnew, hfull⟩
        exact hroom.elim (fun h => h hnew) (fun h => absurd (of_decide_eq_true hfull) (Nat.not_le.mpr h))
      · unfold stationBytes
        rw [half_toNat]
        simp only [List.append_assoc]
        cases s.station (argWord f.payload 0) with
        | none => rfl
        | some e =>
          obtain ⟨b, k⟩ := e
          cases k with
          | learned age => rfl
          | pinned => rfl
    · exact completes he rfl hmine
        (((writeStationCommand_port hholder hasks.2 hq).trans (if_pos ha)).trans
          (if_pos ⟨hnew, decide_eq_true hfull⟩)) hrun
    · by_cases hport : 4 < argByte f.payload 2
      · exact completes he rfl hmine (writeStationCommand_noPort hholder hasks.2 hport) hrun
      · obtain ⟨q, hq⟩ := exists_port_of_le (Nat.not_lt.mp hport)
        have ha : isStation (argWord f.payload 0) = false := hbad.resolve_right hport
        exact completes he rfl hmine
          ((writeStationCommand_port hholder hasks.2 hq).trans (if_neg (by rw [ha]; exact nofun))) hrun
  case delete =>
    have hmine := isCommand_of_asks hasks
    refine ⟨fun ha => ⟨fun e hentry => ?_, fun hnone => ?_⟩, fun ha => ?_⟩
    · exact completes he rfl hmine ((deleteStationCommand_ok hholder hasks.2 ha).trans (by rw [hentry]; rfl)) hrun
    · exact completes he rfl hmine ((deleteStationCommand_ok hholder hasks.2 ha).trans (by rw [hnone]; rfl)) hrun
    · exact completes he rfl hmine (deleteStationCommand_bad hholder hasks.2 ha) hrun
  case flush =>
    have hmine := isCommand_of_asks hasks
    refine ⟨fun q hq => ?_, fun hall => ?_, fun hlow hhigh => ?_⟩
    · exact completes he rfl hmine (flushStationsCommand_port hholder hasks.2 hq) hrun
    · exact completes he rfl hmine (flushStationsCommand_all hholder hasks.2 hall) hrun
    · exact completes he rfl hmine (flushStationsCommand_bad hholder hasks.2 hlow hhigh) hrun
  case address =>
    have hmine : isForm 0x1A 1 f.payload = true := isForm_of hasks.1 (by rw [hzero]; decide)
    have hanswer : readStationAddressCommand r f.payload s = _ := readStationAddressCommand_ok hasks.2 hzero
    refine ⟨fun ha => ⟨fun e hentry => ?_, fun hnone => ?_⟩, fun ha => ?_⟩
    · exact completes he rfl hmine ((hanswer.trans (if_pos ha)).trans (by rw [hentry]; rfl)) hrun
    · exact completes he rfl hmine ((hanswer.trans (if_pos ha)).trans (by rw [hnone]; rfl)) hrun
    · exact completes he rfl hmine (hanswer.trans (if_neg (by rw [ha]; exact nofun))) hrun
  case index =>
    have hmine : isForm 0x1A 0 f.payload = true := isForm_of hasks.1 (by rw [hone]; decide)
    have hanswer : readStationIndexCommand r f.payload s = _ := readStationIndexCommand_ok hasks.2 hone
    refine ⟨fun hi => ?_, fun hi => ?_⟩
    · exact completes he rfl hmine (hanswer.trans (if_pos hi)) hrun
    · exact completes he rfl hmine (hanswer.trans (if_neg (Nat.not_le.mpr hi))) hrun
  case aging =>
    have hmine := isCommand_of_asks hasks
    have hanswer := setAgingCommand_ok hholder hasks.2
    refine ⟨fun hlow hhigh hthreshold => ?_, fun hbad => ?_⟩
    · refine completes he rfl hmine ((hanswer.trans (if_pos ⟨hlow, hhigh, hthreshold⟩)).trans ?_) hrun
      have hcapped : mapValues (capAge (argHalf f.payload 0)) s.stations.entries =
          s.stations.entries.map (fun e =>
            (e.1,
              match e.2.kind with
              | .pinned => e.2
              | .learned age => { e.2 with kind := .learned (min age (argHalf f.payload 0)) })) := by
        refine List.map_congr_left fun e _ => congrArg (Prod.mk e.1) ?_
        obtain ⟨k, q, kind⟩ := e
        cases kind with
        | learned age => exact capAge_learned _ _ _
        | pinned => rfl
      rw [hcapped]
      rfl
    · refine completes he rfl hmine (hanswer.trans (if_neg ?_)) hrun
      omega

end Sys2Proof.Machine
end

section
/-! SUPPORT. The meter commands (8.7) and what a consultation answers (4.2): the meter that SET_METER makes, in each mode and
where it is refused; and the statement that collects the commands' answers. -/

namespace Sys2Proof.Machine

open Sys2Proof.Safety

variable {s : State} {r : Request} {f : Frame} {payload : List Byte} {gate : Bool}

/-! ## The configured meter (R83) -/

/-- The values of a configuration that any mode but OFF asks for. -/
def ConfigurationOk (payload : List Byte) : Prop :=
  argHalf payload 2 ≠ 0 ∧ argHalf payload 4 ≠ 0 ∧ argHalf payload 6 ≠ 0 ∧ argByte payload 8 ≤ 1 ∧ argByte payload 9 ≤ 1

theorem meterModeOf_none {n : Nat} (h : 3 < n) : meterModeOf n = none := by
  match n, h with
  | n + 4, _ => rfl

theorem exceedOf_eq (n : Nat) :
    exceedOf n = if n ≤ 1 then some (if n = 0 then .drop else .demote) else none := by
  match n with
  | 0 => rfl
  | 1 => rfl
  | n + 2 => exact (if_neg (by omega)).symm

theorem flagOf_eq (n : Nat) : flagOf n = if n ≤ 1 then some (decide (n = 1)) else none := by
  match n with
  | 0 => rfl
  | 1 => rfl
  | n + 2 => exact (if_neg (by omega)).symm

theorem configuredMeter_off (h : argByte payload 1 = 0) : configuredMeter payload gate = some .zero := by
  unfold configuredMeter
  rw [h]
  rfl

theorem configuredMeter_noMode (h : 3 < argByte payload 1) : configuredMeter payload gate = none := by
  unfold configuredMeter
  rw [meterModeOf_none h]

/-- The three values of a configuration that must not be 0. -/
theorem positive_iff {a b c : Nat} : (positive a && positive b && positive c) = true ↔ a ≠ 0 ∧ b ≠ 0 ∧ c ≠ 0 := by
  unfold positive
  simp only [Bool.and_eq_true, decide_eq_true_iff, Nat.one_le_iff_ne_zero, and_assoc]

/-- The meter of a mode but OFF, from the fields of the request. -/
def meterOf (payload : List Byte) (gate : Bool) (mode : MeterMode) (ex : ExceedAction) (tr : Bool) : Meter :=
  ⟨mode, argHalf payload 2, argHalf payload 4, argHalf payload 6, ex, tr, argHalf payload 2, .armed,
    startTimer mode (argHalf payload 6) gate, 0, 0⟩

theorem configuredMeter_on {mode : MeterMode} (hmode : meterModeOf (argByte payload 1) = some mode) (hon : mode ≠ .off) :
    configuredMeter payload gate =
      if positive (argHalf payload 2) && positive (argHalf payload 4) && positive (argHalf payload 6) then
        (exceedOf (argByte payload 8)).bind fun ex => (flagOf (argByte payload 9)).map fun tr =>
          meterOf payload gate mode ex tr
      else none := by
  have hfields : ∀ m : MeterMode,
      (match exceedOf (argByte payload 8), flagOf (argByte payload 9) with
        | some ex, some tr => some (meterOf payload gate m ex tr)
        | _, _ => none) =
      (exceedOf (argByte payload 8)).bind fun ex => (flagOf (argByte payload 9)).map fun tr =>
        meterOf payload gate m ex tr := by
    intro m
    cases exceedOf (argByte payload 8) with
    | none => rfl
    | some ex => cases flagOf (argByte payload 9) <;> rfl
  rw [← hfields]
  unfold configuredMeter
  rw [hmode]
  cases mode with
  | off => exact absurd rfl hon
  | continuous | single | gated => rfl

/-- A configuration in range makes the meter; one out of range makes none. -/
theorem configuredMeter_ok {mode : MeterMode} (hmode : meterModeOf (argByte payload 1) = some mode) (hon : mode ≠ .off)
    (hok : ConfigurationOk payload) :
    configuredMeter payload gate =
      some (meterOf payload gate mode (if argByte payload 8 = 0 then .drop else .demote)
        (decide (argByte payload 9 = 1))) := by
  obtain ⟨hceiling, hrefill, hperiod, hexceed, htrigger⟩ := hok
  rw [configuredMeter_on hmode hon, if_pos (positive_iff.mpr ⟨hceiling, hrefill, hperiod⟩), exceedOf_eq, if_pos hexceed,
    flagOf_eq, if_pos htrigger]
  rfl

theorem configuredMeter_bad (hne : argByte payload 1 ≠ 0) (hbad : ¬ ConfigurationOk payload) :
    configuredMeter payload gate = none := by
  by_cases hmode : 3 < argByte payload 1
  · exact configuredMeter_noMode hmode
  · obtain ⟨mode, hmode, hon⟩ : ∃ mode, meterModeOf (argByte payload 1) = some mode ∧ mode ≠ .off := by
      match argByte payload 1, hne, Nat.not_lt.mp hmode with
      | 1, _, _ => exact ⟨.continuous, rfl, nofun⟩
      | 2, _, _ => exact ⟨.single, rfl, nofun⟩
      | 3, _, _ => exact ⟨.gated, rfl, nofun⟩
    rw [configuredMeter_on hmode hon]
    split
    next hpositive =>
      obtain ⟨hceiling, hrefill, hperiod⟩ := positive_iff.mp hpositive
      rw [exceedOf_eq, flagOf_eq]
      by_cases hexceed : argByte payload 8 ≤ 1
      · rw [if_pos hexceed, if_neg fun htrigger => hbad ⟨hceiling, hrefill, hperiod, hexceed, htrigger⟩]
        rfl
      · rw [if_neg hexceed]
        rfl
    next => rfl

/-! ## The answers -/

theorem setMeterCommand_ok {m : Meter} (h : Holder s r) (hform : formOk payload 10 = true) (hn : argByte payload 0 < 32)
    (hm : configuredMeter payload s.meters.gateOpen = some m) :
    setMeterCommand r payload s =
      ⟨.ok, meterBytes (argByte payload 0) m s.meters.gateOpen, s.setMeter (argByte payload 0) m⟩ := by
  refine (((withClaim_holder h).trans (withForm_ok hform)).trans (if_pos (decide_eq_true hn))).trans ?_
  rw [hm]

theorem setMeterCommand_bad (h : Holder s r) (hform : formOk payload 10 = true)
    (hbad : 32 ≤ argByte payload 0 ∨ configuredMeter payload s.meters.gateOpen = none) :
    setMeterCommand r payload s = refuse .badArg s := by
  refine ((withClaim_holder h).trans (withForm_ok hform)).trans ?_
  split
  next hn =>
    rw [hbad.resolve_left (Nat.not_le.mpr (of_decide_eq_true hn))]
  next => rfl

theorem rearmMeterCommand_ok (h : Holder s r) (hform : formOk payload 1 = true) :
    rearmMeterCommand r payload s =
      if meterOk (argByte payload 0) && decide ((s.meter (argByte payload 0)).mode = .single) then
        ⟨.ok, byte (argByte payload 0) ++ byte (armCode (s.meter (argByte payload 0)).arm) ++
            half (s.meter (argByte payload 0)).credit,
          s.setMeter (argByte payload 0)
            { s.meter (argByte payload 0) with credit := (s.meter (argByte payload 0)).ceiling, arm := .armed }⟩
      else refuse .badArg s := (withClaim_holder h).trans (withForm_ok hform)

theorem readMeterCommand_ok (hform : formOk payload 1 = true) :
    readMeterCommand r payload s =
      if meterOk (argByte payload 0) then
        ⟨.ok, meterBytes (argByte payload 0) (s.meter (argByte payload 0)) s.meters.gateOpen, s⟩
      else refuse .badArg s := withForm_ok hform

theorem readMeterClearCommand_ok (h : Holder s r) (hform : formOk payload 1 = true) :
    readMeterClearCommand r payload s =
      if meterOk (argByte payload 0) then
        ⟨.ok, meterBytes (argByte payload 0) (s.meter (argByte payload 0)) s.meters.gateOpen,
          s.setMeter (argByte payload 0) { s.meter (argByte payload 0) with conform := 0, exceeded := 0 }⟩
      else refuse .badArg s := (withClaim_holder h).trans (withForm_ok hform)

theorem meterOk_neg {n : Nat} (h : 32 ≤ n) : ¬ meterOk n = true := fun hn =>
  absurd (of_decide_eq_true hn) (Nat.not_lt.mpr h)

/-- A read with a clear flag is executed by the event of that flag (R166, R167, R177). -/
theorem isRead_of_asks {code : Byte} {n : Nat} {clear : Bool} (h : Asks f code n) (hc : clearFlag f.payload = clear) :
    isRead code clear f.payload = true :=
  Bool.and_eq_true_iff.mpr ⟨isCommand_of_asks h, decide_eq_true hc⟩

/-- Settles O46, command by command. -/
theorem meterCommands : Obligations.MeterCommands := by
  unfold Obligations.MeterCommands
  intro s r f he
  have hrun : s.device.state = .running := (Executing_running he).1
  refine ⟨fun hasks hholder => ?set, fun hasks hholder => ?rearm, fun hasks hflag => ?read, fun hasks hflag hholder => ?clear⟩
  case set =>
    have hmine := isCommand_of_asks hasks
    refine ⟨fun hn hmode => ?_, fun ⟨hn, hok⟩ hmode => ?_, fun ⟨hn, hok⟩ hmode => ?_, fun ⟨hn, hok⟩ hmode => ?_, fun hbad => ?_⟩
    · exact completes he rfl hmine (setMeterCommand_ok hholder hasks.2 hn (configuredMeter_off hmode)) hrun
    · have hm := configuredMeter_ok (gate := s.meters.gateOpen) (mode := .continuous) (by rw [hmode]; rfl) nofun hok
      exact completes he rfl hmine (setMeterCommand_ok hholder hasks.2 hn hm) hrun
    · have hm := configuredMeter_ok (gate := s.meters.gateOpen) (mode := .single) (by rw [hmode]; rfl) nofun hok
      exact completes he rfl hmine (setMeterCommand_ok hholder hasks.2 hn hm) hrun
    · have hm := configuredMeter_ok (gate := s.meters.gateOpen) (mode := .gated) (by rw [hmode]; rfl) nofun hok
      exact completes he rfl hmine (setMeterCommand_ok hholder hasks.2 hn hm) hrun
    · refine completes he rfl hmine (setMeterCommand_bad hholder hasks.2 ?_) hrun
      by_cases hn : argByte f.payload 0 < 32
      · refine .inr ?_
        rcases hbad with hbad | hbad | ⟨hne, hbad⟩
        · exact absurd hn (Nat.not_lt.mpr hbad)
        · exact configuredMeter_noMode hbad
        · exact configuredMeter_bad hne (fun hok => hbad ⟨hn, hok⟩)
      · exact .inl (Nat.not_lt.mp hn)
  case rearm =>
    have hmine := isCommand_of_asks hasks
    have hanswer := rearmMeterCommand_ok hholder hasks.2
    refine ⟨fun hn hmode => ?_, fun hbad => ?_⟩
    · refine completes he rfl hmine ((hanswer.trans (if_pos ?_)).trans rfl) hrun
      exact Bool.and_eq_true_iff.mpr ⟨decide_eq_true hn, decide_eq_true hmode⟩
    · refine completes he rfl hmine (hanswer.trans (if_neg fun h => ?_)) hrun
      obtain ⟨hn, hmode⟩ := Bool.and_eq_true_iff.mp h
      exact hbad.elim (fun hn' => meterOk_neg hn' hn) (fun hmode' => hmode' (of_decide_eq_true hmode))
  case read =>
    have hmine := isRead_of_asks hasks hflag
    have hanswer := readMeterCommand_ok (r := r) (s := s) hasks.2
    exact ⟨fun hn => completes he rfl hmine (hanswer.trans (if_pos (decide_eq_true hn))) hrun,
      fun hn => completes he rfl hmine (hanswer.trans (if_neg (meterOk_neg hn))) hrun⟩
  case clear =>
    have hmine := isRead_of_asks hasks hflag
    have hanswer := readMeterClearCommand_ok hholder hasks.2
    exact ⟨fun hn => completes he rfl hmine (hanswer.trans (if_pos (decide_eq_true hn))) hrun,
      fun hn => completes he rfl hmine (hanswer.trans (if_neg (meterOk_neg hn))) hrun⟩

end Sys2Proof.Machine
end

section
/-! SUPPORT. SET_NOTICE and NOTICE_ACK (8.8): the source that has a sequence, what a change of settings and a settled notice
leave, one law for what each command answers; and the statement that collects the answers. -/

namespace Sys2Proof.Machine

open Sys2Proof.Safety

variable {s t : State} {r : Request} {f : Frame} {payload : List Byte} {q : Source} {n : Nat}

/-! ## Candidates and sequences -/

/-- The candidates are read from the target and the sources alone (R186). -/
theorem eligible_congr (htarget : t.notices.target = s.notices.target) (hsources : t.notices.sources = s.notices.sources)
    (q : Source) : eligible t q = eligible s q := by
  unfold eligible heldBack State.source
  rw [htarget, hsources]

theorem anyCandidate_congr (htarget : t.notices.target = s.notices.target)
    (hsources : t.notices.sources = s.notices.sources) : anyCandidate t = anyCandidate s := by
  unfold anyCandidate State.source
  rw [funext (eligible_congr htarget hsources), hsources]

theorem sourceOfSequence_some (h : sourceOfSequence s n = some q) :
    ∃ x, (s.source q).record = some x ∧ x.sequence = n := by
  have hfound := List.find?_some h
  split at hfound
  next => cases hfound
  next x hx => exact ⟨x, hx, of_decide_eq_true hfound⟩

theorem sourceOfSequence_none (h : sourceOfSequence s n = none) (q : Source) {x : NoticeRecord}
    (hx : (s.source q).record = some x) : x.sequence ≠ n := by
  intro hn
  have hnot := List.find?_eq_none.mp h q (mem_allSources q)
  rw [hx] at hnot
  exact hnot (decide_eq_true hn)

/-- With distinct sequences the source that has one is found (R181, R188). -/
theorem sourceOfSequence_of_record {x : NoticeRecord} (hok : SequencesOk s) (hx : (s.source q).record = some x)
    (hn : x.sequence = n) : sourceOfSequence s n = some q := by
  cases h : sourceOfSequence s n with
  | none => exact absurd hn (sourceOfSequence_none h q hx)
  | some q' =>
    obtain ⟨y, hy, hyn⟩ := sourceOfSequence_some h
    rw [hok.1 q' q y x hy hx (hyn.trans hn.symm)]

theorem sourceOfSequence_of_none (h : ∀ q x, (s.source q).record = some x → x.sequence ≠ n) :
    sourceOfSequence s n = none := by
  cases hfound : sourceOfSequence s n with
  | none => rfl
  | some q =>
    obtain ⟨x, hx, hn⟩ := sourceOfSequence_some hfound
    exact absurd hn (h q x hx)

/-! ## What the commands leave (R180, R181, R193, R195, R196) -/

/-- A settled unit with a service event due: WAITING stays while there is a candidate. -/
theorem settleReady_causeService_eq (s : State) :
    s.settleReady.causeService =
      { s with
        notices := { s.notices with waiting := s.notices.waiting && anyCandidate s, causeDue := true } } := by
  rw [settleReady_eq]
  rfl

theorem settled_anyCandidate (s : State) : anyCandidate s.settleReady.causeService = anyCandidate s := by
  rw [settleReady_causeService_eq]
  exact anyCandidate_congr rfl rfl

/-- The sources under the new enable set, the notices in service abandoned where the target changed. -/
def sourcesAfter (s : State) (target : Word) (port : Port) (set : Byte) : PerSource NoticeSource :=
  withEnableSet
    (if target ≠ s.notices.target ∨ port ≠ s.notices.port then s.notices.sources.map NoticeSource.settled
      else s.notices.sources) set

theorem applyNotice_eq (s : State) (target : Word) (port : Port) (set : Byte) (interval : Nat) :
    applyNotice s target port set interval =
      ({ s with
        notices :=
          { s.notices with
            target := target, port := port, interval := interval
            sources := sourcesAfter s target port set } } : State).settleReady.causeService := rfl

theorem withEnableSet_get (x : PerSource NoticeSource) (set : Byte) (q : Source) :
    (withEnableSet x set).get q = { x.get q with enabled := ((withEnableSet x set).get q).enabled } := by
  cases q <;> rfl

theorem byte_of_bits : ∀ b : Byte,
    BitVec.ofBool (b.getLsbD 7) ++ BitVec.ofBool (b.getLsbD 6) ++ BitVec.ofBool (b.getLsbD 5) ++
      BitVec.ofBool (b.getLsbD 4) ++ BitVec.ofBool (b.getLsbD 3) ++ BitVec.ofBool (b.getLsbD 2) ++
      BitVec.ofBool (b.getLsbD 1) ++ BitVec.ofBool (b.getLsbD 0) = b := by decide

/-- The sources with E set are those of the set written (R196). -/
theorem enableSet_of_sources {x : PerSource NoticeSource} {set : Byte} (h : s.notices.sources = withEnableSet x set) :
    enableSet s = set := by
  unfold enableSet sourceSet State.source
  rw [h]
  exact byte_of_bits set

/-! ## The answers -/

theorem setNoticeCommand_ok {p : Port} (h : Holder s r) (hform : formOk payload 5 = true)
    (hp : argByte payload 2 = portNumber p) :
    setNoticeCommand r payload s =
      if (argWord payload 0 = 0 ∨ isStation (argWord payload 0)) ∧ argByte payload 4 ≠ 0 then
        let u := applyNotice s (argWord payload 0) p (byteAt (arguments payload) 3) (argByte payload 4)
        ⟨.ok, wordBytes (argWord payload 0) ++ byte (portNumber p) ++ [byteAt (arguments payload) 3] ++
          byte (argByte payload 4) ++ [pendingSet u, inServiceSet u], u⟩
      else refuse .badArg s := by
  refine ((withClaim_holder h).trans (withForm_ok hform)).trans ?_
  rw [hp, portOf_portNumber]

theorem setNoticeCommand_noPort (h : Holder s r) (hform : formOk payload 5 = true) (hp : 4 < argByte payload 2) :
    setNoticeCommand r payload s = refuse .badArg s := by
  refine ((withClaim_holder h).trans (withForm_ok hform)).trans ?_
  rw [portOf_none hp]

theorem noticeAckCommand_notTarget (h : s.notices.target = 0 ∨ r.source ≠ s.notices.target) :
    noticeAckCommand r payload s = refuse .notTarget s := if_pos h

theorem noticeAckCommand_target (h0 : s.notices.target ≠ 0) (hr : r.source = s.notices.target) :
    noticeAckCommand r payload s =
      withForm payload 1 s
        (if argByte payload 0 = 0 then refuse .badArg s
          else
            match sourceOfSequence s (argByte payload 0) with
            | none => refuse .stale s
            | some q => ⟨.ok, byte (sourceRank q), (s.setSource q (s.source q).settled).settleReady.causeService⟩) :=
  if_neg (fun h => h.elim h0 (fun hne => hne hr))

/-- Settles O48, answer by answer. -/
theorem noticeCommands : Obligations.NoticeCommands := by
  unfold Obligations.NoticeCommands
  intro s r f he
  have hrun : s.device.state = .running := (Executing_running he).1
  refine ⟨fun hasks hholder => ⟨fun p hp htarget hinterval => ?set, fun hbad => ?setBad⟩, fun hcode hother => ?notTarget,
    fun hasks h0 hr => ⟨fun hzero => ?ackZero, fun hne hnone => ?stale, fun q x hne hok hx hn => ?ack⟩⟩
  case set =>
    have hanswer : setNoticeCommand r f.payload s = _ :=
      (setNoticeCommand_ok hholder hasks.2 hp).trans (if_pos ⟨htarget, hinterval⟩)
    have hcandidates := settled_anyCandidate
      { s with
        notices :=
          { s.notices with
            target := argWord f.payload 0, port := p, interval := argByte f.payload 4
            sources := sourcesAfter s (argWord f.payload 0) p (byteAt (arguments f.payload) 3) } }
    rw [settleReady_causeService_eq] at hcandidates
    rw [applyNotice_eq, settleReady_causeService_eq] at hanswer
    refine ⟨_, completes he rfl (isCommand_of_asks hasks) hanswer hrun, rfl, rfl, rfl, rfl, rfl, rfl, rfl, rfl, ?_,
      enableSet_of_sources rfl, fun hsame q => ?_, fun hchanged q => ?_⟩
    · rw [hcandidates]
    · obtain ⟨htarget, hport⟩ := hsame
      have hsources : sourcesAfter s (argWord f.payload 0) p (byteAt (arguments f.payload) 3) =
          withEnableSet s.notices.sources (byteAt (arguments f.payload) 3) :=
        congrArg (withEnableSet · _) (if_neg (fun h => h.elim (fun h => h htarget) (fun h => h hport)))
      unfold State.source
      dsimp only
      rw [hsources]
      exact withEnableSet_get _ _ q
    · have hsources : sourcesAfter s (argWord f.payload 0) p (byteAt (arguments f.payload) 3) =
          withEnableSet (s.notices.sources.map NoticeSource.settled) (byteAt (arguments f.payload) 3) :=
        congrArg (withEnableSet · _) (if_pos hchanged)
      unfold State.source
      dsimp only
      rw [hsources]
      refine (withEnableSet_get _ _ q).trans ?_
      rw [PerSource.get_map]
      rfl
  case setBad =>
    have hmine := isCommand_of_asks hasks
    by_cases hport : 4 < argByte f.payload 2
    · exact completes he rfl hmine (setNoticeCommand_noPort hholder hasks.2 hport) hrun
    · obtain ⟨p, hp⟩ := exists_port_of_le (Nat.not_lt.mp hport)
      refine completes he rfl hmine ((setNoticeCommand_ok hholder hasks.2 hp).trans (if_neg ?_)) hrun
      rintro ⟨htarget, hinterval⟩
      rcases hbad with hbad | ⟨hne, hbad⟩ | hbad
      · exact hport hbad
      · rcases htarget with htarget | htarget
        · exact hne htarget
        · rw [hbad] at htarget
          cases htarget
      · exact hinterval hbad
  case notTarget => exact completes he rfl (decide_eq_true hcode) (noticeAckCommand_notTarget hother) hrun
  case ackZero =>
    exact completes he rfl (isCommand_of_asks hasks)
      (((noticeAckCommand_target h0 hr).trans (withForm_ok hasks.2)).trans (if_pos hzero)) hrun
  case stale =>
    refine completes he rfl (isCommand_of_asks hasks)
      (((noticeAckCommand_target h0 hr).trans (withForm_ok hasks.2)).trans ((if_neg hne).trans ?_)) hrun
    rw [sourceOfSequence_of_none hnone]
    rfl
  case ack =>
    have hanswer : noticeAckCommand r f.payload s = _ :=
      ((noticeAckCommand_target h0 hr).trans (withForm_ok hasks.2)).trans (if_neg hne)
    rw [sourceOfSequence_of_record hok hx hn] at hanswer
    dsimp only at hanswer
    have hcandidates := settled_anyCandidate (s.setSource q (s.source q).settled)
    rw [settleReady_causeService_eq] at hanswer hcandidates
    refine ⟨_, completes he rfl (isCommand_of_asks hasks) hanswer hrun, rfl, State.source_setSource_self s q _,
      fun b hb => State.source_setSource_other s hb _, rfl, ?_, rfl⟩
    rw [hcandidates]
    rfl

end Sys2Proof.Machine
end

section
/-! SUPPORT. Refusals (R145, R153, R154, R158): the guards that commands share, claim before form, said once for each list of
commands; and the statement that collects the refusals. -/

namespace Sys2Proof.Machine

open Sys2Proof.Safety

variable {s : State} {r : Request} {f : Frame} {payload : List Byte}

/-! ## The guards -/

/-- The event executes one command, which refuses any station but the holder, and the holder a request out of form. -/
def ClaimGuarded (i : Instr) (mine : List Byte → Bool) (n : Nat) : Prop :=
  ∃ judge, (∀ s, exec i s = .next (runRequest mine judge s)) ∧
    (∀ r payload s, ¬ Holder s r → judge r payload s = refuse .notHolder s) ∧
    ∀ r payload s, Holder s r → formOk payload n = false → judge r payload s = refuse .badArg s

/-- The event executes one command, which refuses a request out of form. -/
def FormGuarded (i : Instr) (mine : List Byte → Bool) (n : Nat) : Prop :=
  ∃ judge, (∀ s, exec i s = .next (runRequest mine judge s)) ∧
    ∀ r payload s, formOk payload n = false → judge r payload s = refuse .badArg s

theorem claimGuarded {i : Instr} {mine : List Byte → Bool} {n : Nat} {judge : Request → List Byte → State → Answer}
    (hi : ∀ s, exec i s = .next (runRequest mine judge s))
    (h : ∀ r payload s, ∃ a, judge r payload s = withClaim r s (withForm payload n s a)) : ClaimGuarded i mine n := by
  refine ⟨judge, hi, fun r payload s hother => ?_, fun r payload s hholder hform => ?_⟩
  · obtain ⟨a, ha⟩ := h r payload s
    exact ha.trans (withClaim_other hother)
  · obtain ⟨a, ha⟩ := h r payload s
    exact ha.trans ((withClaim_holder hholder).trans (withForm_bad hform))

theorem formGuarded {i : Instr} {mine : List Byte → Bool} {n : Nat} {judge : Request → List Byte → State → Answer}
    (hi : ∀ s, exec i s = .next (runRequest mine judge s))
    (h : ∀ r payload s, ∃ a, judge r payload s = withForm payload n s a) : FormGuarded i mine n := by
  refine ⟨judge, hi, fun r payload s hform => ?_⟩
  obtain ⟨a, ha⟩ := h r payload s
  exact ha.trans (withForm_bad hform)

theorem ClaimGuarded.completes {i : Instr} {mine : List Byte → Bool} {n : Nat} (h : ClaimGuarded i mine n)
    (he : Executing s r f) (hm : mine f.payload = true) :
    (¬ Holder s r → Completes i s s r f .notHolder []) ∧
      (Holder s r → formOk f.payload n = false → Completes i s s r f .badArg []) := by
  obtain ⟨judge, hi, hother, hform⟩ := h
  have hrun : s.device.state = .running := (Executing_running he).1
  exact ⟨fun hn => Machine.completes he (hi s) hm (hother r f.payload s hn) hrun,
    fun hh hf => Machine.completes he (hi s) hm (hform r f.payload s hh hf) hrun⟩

theorem FormGuarded.completes {i : Instr} {mine : List Byte → Bool} {n : Nat} (h : FormGuarded i mine n)
    (he : Executing s r f) (hm : mine f.payload = true) (hf : formOk f.payload n = false) :
    Completes i s s r f .badArg [] := by
  obtain ⟨judge, hi, hform⟩ := h
  exact Machine.completes he (hi s) hm (hform r f.payload s hf) (Executing_running he).1

/-- WRITE_RULE asks twice for its form (R169). -/
theorem writeRuleCommand_bad (h : Holder s r)
    (hform : formOk payload 3 = false ∨ formOk payload (1 + recordLength ((arguments payload).drop 1)) = false) :
    writeRuleCommand r payload s = refuse .badArg s := by
  refine (withClaim_holder h).trans (if_neg ?_)
  rw [Bool.and_eq_true]
  rintro ⟨hthree, hall⟩
  rcases hform with hform | hform
  · rw [hform] at hthree
    cases hthree
  · rw [hform] at hall
    cases hall

theorem writeRule_guarded : ClaimGuarded .writeRule (isCommand 0x0A) 3 :=
  ⟨writeRuleCommand, fun _ => rfl, fun _ _ _ h => withClaim_other h, fun _ _ _ h hform =>
    writeRuleCommand_bad h (.inl hform)⟩

theorem claimCommands_guarded : ∀ c ∈ claimCommands, ClaimGuarded c.1 (isCommand c.2.1) c.2.2 := by
  simp only [claimCommands, List.forall_mem_cons]
  exact ⟨claimGuarded (fun _ => rfl) (fun _ _ _ => ⟨_, rfl⟩), claimGuarded (fun _ => rfl) (fun _ _ _ => ⟨_, rfl⟩),
    claimGuarded (fun _ => rfl) (fun _ _ _ => ⟨_, rfl⟩), writeRule_guarded,
    claimGuarded (fun _ => rfl) (fun _ _ _ => ⟨_, rfl⟩), claimGuarded (fun _ => rfl) (fun _ _ _ => ⟨_, rfl⟩),
    claimGuarded (fun _ => rfl) (fun _ _ _ => ⟨_, rfl⟩), claimGuarded (fun _ => rfl) (fun _ _ _ => ⟨_, rfl⟩),
    claimGuarded (fun _ => rfl) (fun _ _ _ => ⟨_, rfl⟩), claimGuarded (fun _ => rfl) (fun _ _ _ => ⟨_, rfl⟩),
    claimGuarded (fun _ => rfl) (fun _ _ _ => ⟨_, rfl⟩), claimGuarded (fun _ => rfl) (fun _ _ _ => ⟨_, rfl⟩),
    claimGuarded (fun _ => rfl) (fun _ _ _ => ⟨_, rfl⟩), claimGuarded (fun _ => rfl) (fun _ _ _ => ⟨_, rfl⟩),
    claimGuarded (fun _ => rfl) (fun _ _ _ => ⟨_, rfl⟩), List.forall_mem_nil _⟩

theorem openCommands_guarded : ∀ c ∈ openCommands, FormGuarded c.1 (isCommand c.2.1) c.2.2 := by
  simp only [openCommands, List.forall_mem_cons]
  exact ⟨formGuarded (fun _ => rfl) (fun _ _ _ => ⟨_, rfl⟩), formGuarded (fun _ => rfl) (fun _ _ _ => ⟨_, rfl⟩),
    formGuarded (fun _ => rfl) (fun _ _ _ => ⟨_, rfl⟩), formGuarded (fun _ => rfl) (fun _ _ _ => ⟨_, rfl⟩),
    formGuarded (fun _ => rfl) (fun _ _ _ => ⟨_, rfl⟩), List.forall_mem_nil _⟩

theorem readCommands_guarded : ∀ c ∈ readCommands,
    FormGuarded c.1 (isRead c.2.2.1 false) c.2.2.2 ∧ ClaimGuarded c.2.1 (isRead c.2.2.1 true) c.2.2.2 := by
  simp only [readCommands, List.forall_mem_cons]
  exact ⟨⟨formGuarded (fun _ => rfl) (fun _ _ _ => ⟨_, rfl⟩), claimGuarded (fun _ => rfl) (fun _ _ _ => ⟨_, rfl⟩)⟩,
    ⟨formGuarded (fun _ => rfl) (fun _ _ _ => ⟨_, rfl⟩), claimGuarded (fun _ => rfl) (fun _ _ _ => ⟨_, rfl⟩)⟩, List.forall_mem_nil _⟩

theorem isRead_of_code {code : Byte} {clear : Bool} (h : commandCode payload = code) (hc : clearFlag payload = clear) :
    isRead code clear payload = true := Bool.and_eq_true_iff.mpr ⟨decide_eq_true h, decide_eq_true hc⟩

/-! ## The forms of READ_STATION and the kinds of RESTART -/

theorem stationForm_bad (h : 1 < argByte payload 0) : stationFormOk payload = false :=
  decide_eq_false (Nat.not_le.mpr h)

theorem readStationAddressCommand_bad (h : formOk payload 3 = false ∨ 1 < argByte payload 0) :
    readStationAddressCommand r payload s = refuse .badArg s := by
  by_cases hform : formOk payload 3 = true
  · refine (withForm_ok hform).trans (if_neg ?_)
    rw [stationForm_bad (h.resolve_left (by rw [hform]; exact nofun))]
    exact nofun
  · exact withForm_bad (Bool.eq_false_iff.mpr hform)

theorem readStationIndexCommand_bad (h : formOk payload 3 = false ∨ 1 < argByte payload 0) :
    readStationIndexCommand r payload s = refuse .badArg s := by
  by_cases hform : formOk payload 3 = true
  · refine (withForm_ok hform).trans (if_neg ?_)
    rw [stationForm_bad (h.resolve_left (by rw [hform]; exact nofun))]
    exact nofun
  · exact withForm_bad (Bool.eq_false_iff.mpr hform)

/-- The two answers of a RESTART to a request out of form, or of a kind above 1. -/
theorem restartCommand_bad (hh : Holder s r) (h : formOk payload 1 = false ∨ 1 < argByte payload 0) :
    restartTrafficCommand r payload s = refuse .badArg s ∧ restartFullCommand r payload s = refuse .badArg s := by
  by_cases hform : formOk payload 1 = true
  · have hkind : ¬ restartKindOk payload = true := by
      have hlow := h.resolve_left (by rw [hform]; exact nofun)
      exact fun hok => absurd (of_decide_eq_true hok) (Nat.not_le.mpr hlow)
    exact ⟨((withClaim_holder hh).trans (withForm_ok hform)).trans (if_neg hkind),
      ((withClaim_holder hh).trans (withForm_ok hform)).trans (if_neg hkind)⟩
  · have hform := Bool.eq_false_iff.mpr hform
    exact ⟨(withClaim_holder hh).trans (withForm_bad hform), (withClaim_holder hh).trans (withForm_bad hform)⟩

theorem exec_restartFull (he : Executing s r f) (hm : isForm 0x18 1 f.payload = true) :
    exec .restartFull s =
      .next (completeRequest r f (decide ((restartFullCommand r f.payload s).status = .ok))
        (restartFullCommand r f.payload s)) := by
  refine congrArg Host.Outcome.next ?_
  unfold runRestartFull
  rw [show s.executable = some (r, f) from he]
  exact if_pos hm

/-- A RESTART FULL that is refused completes as any request does. -/
theorem completes_restartFull {st : Status} (he : Executing s r f) (hm : isForm 0x18 1 f.payload = true)
    (ha : restartFullCommand r f.payload s = refuse st s) (hst : st ≠ .ok) : Completes .restartFull s s r f st [] := by
  have hrun : s.device.state = .running := (Executing_running he).1
  refine ⟨completeRequest r f false (refuse st s), ?_, completeRequest_frame r f (refuse st s) hrun,
    completeRequest_answered r f (refuse st s) hrun⟩
  rw [exec_restartFull he hm, ha, decide_eq_false (show ¬ (refuse st s).status = .ok from hst)]

/-! ## Numbers that name no port, bank or command -/

theorem isUnknown_of (h : commandCode payload = 0 ∨ commandCode payload = 0x09 ∨ 0x1B ≤ (commandCode payload).toNat) :
    isUnknown payload = true := by
  unfold isUnknown
  have hall : ∀ c : Byte, (c = 0 ∨ c = 0x09 ∨ 0x1B ≤ c.toNat) → (!knownCommand c) = true := by decide
  exact hall _ h

theorem bankOf_none {n : Nat} (h : 1 < n) : bankOf n = none := by
  match n, h with
  | n + 2, _ => rfl

theorem setPortCommand_noPort (h : Holder s r) (hform : formOk payload 11 = true) (hp : 4 < argByte payload 0) :
    setPortCommand r payload s = refuse .badArg s := by
  refine ((withClaim_holder h).trans (withForm_ok hform)).trans ?_
  rw [portOf_none hp]

theorem readPortCommand_noPort (hform : formOk payload 2 = true) (hp : 4 < argByte payload 0) :
    readPortCommand r payload s = refuse .badArg s := by
  refine (withForm_ok hform).trans ?_
  rw [portOf_none hp]

theorem readPortClearCommand_noPort (h : Holder s r) (hform : formOk payload 2 = true) (hp : 4 < argByte payload 0) :
    readPortClearCommand r payload s = refuse .badArg s := by
  refine ((withClaim_holder h).trans (withForm_ok hform)).trans ?_
  rw [portOf_none hp]

theorem readRuleCommand_noBank (hform : formOk payload 2 = true) (hb : 1 < argByte payload 0) :
    readRuleCommand r payload s = refuse .badArg s := by
  refine (withForm_ok hform).trans ?_
  rw [bankOf_none hb]

/-- Settles O51: the guards of each list, then the forms, kinds and numbers by themselves. -/
theorem refusedRequests : Obligations.RefusedRequests := by
  unfold Obligations.RefusedRequests
  intro s r f he
  have hrun : s.device.state = .running := (Executing_running he).1
  refine ⟨fun hcode => completes he rfl (isUnknown_of hcode) rfl hrun,
    fun c hc hcode => (claimCommands_guarded c hc).completes he (decide_eq_true hcode),
    fun c hc hcode => (openCommands_guarded c hc).completes he (decide_eq_true hcode), fun c hc hcode => ?reads,
    fun hcode hbad => ⟨fun hform => ?_, fun hform => ?_⟩, fun hcode hother => ⟨fun hkind => ?_, fun hkind => ?_⟩,
    fun hcode hholder hbad => ⟨fun hkind => ?_, fun hkind => ?_⟩, fun hcode h0 hr hform => ?ack,
    fun hasks hholder hform => completes he rfl (isCommand_of_asks hasks) (writeRuleCommand_bad hholder (.inr hform)) hrun,
    fun hport => ⟨fun hasks hholder => ?_, fun hasks hflag => ?_, fun hasks hflag hholder => ?_⟩,
    fun hasks hbank => completes he rfl (isCommand_of_asks hasks) (readRuleCommand_noBank hasks.2 hbank) hrun⟩
  case reads =>
    obtain ⟨hread, hclear⟩ := readCommands_guarded c hc
    exact ⟨fun hflag => hread.completes he (isRead_of_code hcode hflag),
      fun hflag => (hclear.completes he (isRead_of_code hcode hflag)).1,
      fun hflag => (hclear.completes he (isRead_of_code hcode hflag)).2⟩
  case ack =>
    exact completes he rfl (decide_eq_true hcode) ((noticeAckCommand_target h0 hr).trans (withForm_bad hform)) hrun
  · exact completes he rfl (isForm_of hcode hform) (readStationAddressCommand_bad hbad) hrun
  · exact completes he rfl (isForm_of hcode hform) (readStationIndexCommand_bad hbad) hrun
  · exact completes he rfl (isForm_of hcode (by rw [hkind]; decide)) (withClaim_other hother) hrun
  · exact completes_restartFull he (isForm_of hcode hkind) (withClaim_other hother) nofun
  · exact completes he rfl (isForm_of hcode hkind) (restartCommand_bad hholder hbad).1 hrun
  · exact completes_restartFull he (isForm_of hcode hkind) (restartCommand_bad hholder hbad).2 nofun
  · exact completes he rfl (isCommand_of_asks hasks) (setPortCommand_noPort hholder hasks.2 hport) hrun
  · exact completes he rfl (isRead_of_asks hasks hflag) (readPortCommand_noPort hasks.2 hport) hrun
  · exact completes he rfl (isRead_of_asks hasks hflag) (readPortClearCommand_noPort hholder hasks.2 hport) hrun

end Sys2Proof.Machine
end

section
/-! SUPPORT. Changes of mode (6.3) and the port commands (8.4): one law for each way a commanded mode is taken, what leaving
service leaves block by block, the parts of READ_PORT; and the statement that collects the commands' answers. -/

namespace Sys2Proof.Machine

open Sys2Proof.Safety

variable {s : State} {r : Request} {f : Frame} {p : Port} {mode : Mode} {payload : List Byte}

/-! ## The ways a mode is taken (R121 to R123) -/

theorem applyMode_same (h : (s.port p).state = mode.toState) :
    s.applyMode p mode = s.setPort p { s.port p with commanded := mode } := if_pos h

/-- What a port that stays in service, or returns to it, takes with its mode. -/
def servingUnit (u : PortUnit) (mode : Mode) : PortUnit :=
  { u with
    commanded := mode, state := mode.toState, blockTimer := none
    receiver := if unitInService u then u.receiver else .idle }

theorem servingUnit_receiver (u : PortUnit) :
    (if u.state = .disabled ∨ u.state = .blocked then .idle else u.receiver) =
      if unitInService u then u.receiver else Receiver.idle := by
  unfold unitInService
  cases u.state <;> rfl

theorem applyMode_serve (hne : (s.port p).state ≠ mode.toState) (hmode : mode ≠ .disabled)
    (htrunk : p = .t → (s.port p).state ≠ .active) :
    s.applyMode p mode = s.setPort p (servingUnit (s.port p) mode) := by
  unfold servingUnit
  rw [← servingUnit_receiver]
  exact (if_neg hne).trans ((if_neg hmode).trans (if_neg fun h => htrunk h.1 h.2))

theorem applyMode_trunk (hactive : (s.port .t).state = .active) (hne : (s.port .t).state ≠ mode.toState)
    (hmode : mode ≠ .disabled) :
    s.applyMode .t mode = (s.setPort .t (servingUnit (s.port .t) mode)).trunkLeavesActive := by
  unfold servingUnit
  rw [← servingUnit_receiver]
  exact (if_neg hne).trans ((if_neg hmode).trans (if_pos ⟨rfl, hactive⟩))

theorem applyMode_unblock (h : (s.port p).state = .blocked) :
    s.applyMode p .disabled =
      s.setPort p { s.port p with commanded := .disabled, state := .disabled, blockTimer := none } :=
  (if_neg (by rw [h]; exact nofun)).trans ((if_pos rfl).trans (if_pos h))

theorem applyMode_leave (h : unitInService (s.port p) = true) :
    s.applyMode p .disabled = (s.setPort p { s.port p with commanded := .disabled }).leaveService p .disabled := by
  have hne : (s.port p).state ≠ .disabled ∧ (s.port p).state ≠ .blocked := by
    unfold unitInService at h
    revert h
    cases (s.port p).state <;> decide
  exact (if_neg hne.1).trans ((if_pos rfl).trans (if_neg hne.2))

/-! ## The lock when T leaves ACTIVE (R133) -/

theorem trunkLeavesActive_unlocked_eq (h : s.sync.locked = false) :
    s.trunkLeavesActive = { s with sync := { s.sync with timer := none } } := if_neg (by rw [h]; exact nofun)

theorem trunkLeavesActive_locked_eq (h : s.sync.locked = true) : s.trunkLeavesActive = s.loseSync 1 := if_pos h

/-- T's leaving of ACTIVE works on the lock, the meters and the source SYNC_LOST alone. -/
theorem trunkLeavesActive_frame (s : State) :
    s.trunkLeavesActive.stations = s.stations ∧ s.trunkLeavesActive.agent = s.agent ∧
      s.trunkLeavesActive.device = s.device ∧ ∀ q, q ≠ .syncLost → s.trunkLeavesActive.source q = s.source q := by
  rcases trunkLeavesActive_cases s with ⟨-, h⟩ | ⟨-, h⟩ <;> rw [h]
  · have honly := (loseSync_only s 1).1
    generalize s.loseSync 1 = u at honly
    rw [honly]
    exact ⟨rfl, rfl, rfl, fun q hq => State.source_raise_other s hq 1⟩
  · exact ⟨rfl, rfl, rfl, fun _ _ => rfl⟩

/-! ## Leaving service (R122) -/

/-- The part when a port has left service, before T's lock is acted on. -/
def leftService (s : State) (p : Port) (new : PortState) : State :=
  ((s.stopEgress p).setPort p
    { (s.stopEgress p).port p with state := new, receiver := .idle, errorCount := 0 }).setEntries
      (removeLearnedOn p (s.stopEgress p).stations.entries)

theorem leaveService_other (new : PortState) (h : ¬ (p = .t ∧ (s.port p).state = .active)) :
    s.leaveService p new = leftService s p new := leaveService_eq new (fun ht => h ⟨ht.1, isActive_iff.mp ht.2⟩)

theorem leaveService_trunk (new : PortState) (h : (s.port .t).state = .active) :
    s.leaveService .t new = (leftService s .t new).trunkLeavesActive := if_pos ⟨rfl, isActive_iff.mpr h⟩

/-- What leaving service leaves of the other blocks. -/
structure LeftBlocks (p : Port) (s t : State) : Prop where
  rules : t.rules = s.rules
  stations : t.stations = { s.stations with entries := removeLearnedOn p s.stations.entries }
  agent : t.agent = s.agent
  device : s.device.restartMark = none → t.device = s.device
  sources : ∀ q, q ≠ .syncLost → t.source q = s.source q

theorem leftService_blocks (s : State) (p : Port) (new : PortState) : LeftBlocks p s (leftService s p new) := by
  have honly := stopEgress_only s p
  unfold leftService
  generalize s.stopEgress p = u at honly
  refine ⟨honly.rules, ?_, honly.agent, honly.unmarked, fun q _ => congrArg (PerSource.get · q) honly.sources⟩
  unfold State.setEntries State.setPort
  simp only [honly.stations]

/-- Before the lock is acted on, the lock and the meters are as they were. -/
theorem leftService_lock (s : State) (p : Port) (new : PortState) :
    (leftService s p new).meters = s.meters ∧ (leftService s p new).sync = s.sync ∧
      (leftService s p new).source .syncLost = s.source .syncLost := by
  have honly := stopEgress_only s p
  unfold leftService
  generalize s.stopEgress p = u at honly
  exact ⟨honly.meters, honly.sync, congrArg (PerSource.get · .syncLost) honly.sources⟩

theorem leaveService_blocks (s : State) (p : Port) (new : PortState) : LeftBlocks p s (s.leaveService p new) := by
  have hleft := leftService_blocks s p new
  by_cases h : p = .t ∧ (s.port p).state = .active
  · obtain ⟨rfl, hactive⟩ := h
    rw [leaveService_trunk new hactive]
    have hrules := trunkLeavesActive_rules (leftService s .t new)
    obtain ⟨hstations, hagent, hdevice, hsources⟩ := trunkLeavesActive_frame (leftService s .t new)
    exact ⟨hrules.trans hleft.rules, hstations.trans hleft.stations, hagent.trans hleft.agent,
      fun hm => hdevice.trans (hleft.device hm), fun q hq => (hsources q hq).trans (hleft.sources q hq)⟩
  · rw [leaveService_other new h]
    exact hleft

theorem leaveService_port (s : State) (p : Port) (new : PortState) :
    (s.leaveService p new).port p =
      { s.port p with
        state := new, receiver := .idle, errorCount := 0, counters := stoppedCounters (s.port p)
        egress := stoppedEgress (s.port p).egress } := by
  rw [(leaveService_ports s p new).1, stopEgress_port]

/-- The lock of a LOCKED T that leaves service (R133). -/
theorem leaveService_locked (new : PortState) (hactive : (s.port .t).state = .active) (hlocked : s.sync.locked = true)
    (hgate : s.meters.gateOpen = true) :
    (s.leaveService .t new).meters =
        ⟨s.meters.meters.map (fun m => if m.mode = .gated then { m with timer := none } else m), false⟩ ∧
      (s.leaveService .t new).sync = { s.sync with locked := false, timer := none } ∧
      (s.leaveService .t new).source .syncLost =
        { s.source .syncLost with
          pending := true
          occurrences := min 255 ((s.source .syncLost).occurrences + 1)
          detail := 1 } := by
  obtain ⟨hmeters, hsync, hsource⟩ := leftService_lock s .t new
  rw [leaveService_trunk new hactive]
  generalize leftService s .t new = u at *
  rw [trunkLeavesActive_locked_eq (by rw [hsync]; exact hlocked), loseSync_eq (by rw [hmeters]; exact hgate)]
  refine ⟨by rw [hmeters], by rw [hsync], ?_⟩
  rw [hsource]
  rfl

theorem leaveService_unlocked (new : PortState) (hactive : (s.port .t).state = .active) (hlocked : s.sync.locked = false) :
    (s.leaveService .t new).meters = s.meters ∧
      (s.leaveService .t new).sync = { s.sync with timer := none } ∧
      (s.leaveService .t new).source .syncLost = s.source .syncLost := by
  obtain ⟨hmeters, hsync, hsource⟩ := leftService_lock s .t new
  rw [leaveService_trunk new hactive]
  generalize leftService s .t new = u at *
  rw [trunkLeavesActive_unlocked_eq (by rw [hsync]; exact hlocked)]
  exact ⟨hmeters, by rw [hsync], hsource⟩

/-! ## The answers -/

/-- The settings of a SET_PORT in range (R164). -/
theorem setPortArgsOk_iff : setPortArgsOk payload = true ↔
    argByte payload 2 ≤ 1 ∧ 16 ≤ argHalf payload 3 ∧ argHalf payload 3 ≤ 384 ∧
      1 ≤ argByte payload 7 ∧ argByte payload 7 ≤ 60 ∧ 1 ≤ argByte payload 8 ∧ argByte payload 8 ≤ 16 ∧
      1 ≤ argByte payload 9 ∧ argByte payload 9 ≤ 16 ∧ 1 ≤ argByte payload 10 ∧ argByte payload 10 ≤ 16 := by
  have hflag : (flagOf (argByte payload 2)).isSome = true ↔ argByte payload 2 ≤ 1 := by
    rw [flagOf_eq]
    split
    next h => exact ⟨fun _ => h, fun _ => rfl⟩
    next h => exact ⟨nofun, fun h' => absurd h' h⟩
  unfold setPortArgsOk
  simp only [Bool.and_eq_true, decide_eq_true_iff, hflag, and_assoc]

theorem modeOf_modeCode (mode : Mode) : modeOf (modeCode mode) = some mode := by cases mode <;> rfl

theorem modeOf_none {n : Nat} (h : 2 < n) : modeOf n = none := by
  match n, h with
  | n + 3, _ => rfl

/-- The part with the settings of a SET_PORT but for its mode. -/
def withPortSettings (s : State) (p : Port) (payload : List Byte) : State :=
  s.setPort p ((s.port p).withSettings payload)

theorem setPortCommand_ok (h : Holder s r) (hform : formOk payload 11 = true) (hp : argByte payload 0 = portNumber p)
    (hmode : argByte payload 1 = modeCode mode) :
    setPortCommand r payload s =
      if setPortArgsOk payload then
        ⟨.ok, byte (portNumber p) ++ portRecord ((withPortSettings s p payload).applyMode p mode) p,
          (withPortSettings s p payload).applyMode p mode⟩
      else refuse .badArg s := by
  refine ((withClaim_holder h).trans (withForm_ok hform)).trans ?_
  rw [hp, portOf_portNumber, hmode, modeOf_modeCode]
  rfl

theorem setPortCommand_noMode (h : Holder s r) (hform : formOk payload 11 = true) (hmode : 2 < argByte payload 1) :
    setPortCommand r payload s = refuse .badArg s := by
  refine ((withClaim_holder h).trans (withForm_ok hform)).trans ?_
  rw [modeOf_none hmode]
  cases portOf (argByte payload 0) <;> rfl

theorem exists_mode_of_le {n : Nat} (h : n ≤ 2) : ∃ mode, n = modeCode mode := by
  match n, h with
  | 0, _ => exact ⟨.disabled, rfl⟩
  | 1, _ => exact ⟨.listen, rfl⟩
  | 2, _ => exact ⟨.active, rfl⟩

/-- A SET_PORT in range, once what its mode makes of the part is known, completes with that part. -/
theorem completes_setPort {s' : State} (he : Executing s r f) (hasks : Asks f 0x06 11) (hh : Holder s r)
    (hp : argByte f.payload 0 = portNumber p) (hmode : argByte f.payload 1 = modeCode mode)
    (hok : setPortArgsOk f.payload = true) (hs' : (withPortSettings s p f.payload).applyMode p mode = s')
    (hrun : s'.device.state = .running) :
    Completes .setPort s s' r f .ok (byte (portNumber p) ++ portStateBytes (s'.port p) (s'.store.held.get p)) := by
  subst hs'
  exact completes he rfl (isCommand_of_asks hasks) ((setPortCommand_ok hh hasks.2 hp hmode).trans (if_pos hok)) hrun

/-- The parts of READ_PORT (R166). -/
def readPart (s : State) (p : Port) : Nat → Answer
  | 0 => ⟨.ok, byte (portNumber p) ++ byte 0 ++ portRecord s p, s⟩
  | 1 => ⟨.ok, byte (portNumber p) ++ byte 1 ++ countsOne (s.port p).counters, s⟩
  | 2 => ⟨.ok, byte (portNumber p) ++ byte 2 ++ countsTwo (s.port p).counters, s⟩
  | 3 => ⟨.ok, byte (portNumber p) ++ byte 3 ++ countsOne (s.port p).image, s⟩
  | 4 => ⟨.ok, byte (portNumber p) ++ byte 4 ++ countsTwo (s.port p).image, s⟩
  | _ + 5 => refuse .badArg s

theorem readPortCommand_ok (hform : formOk payload 2 = true) (hp : argByte payload 0 = portNumber p) :
    readPortCommand r payload s = readPart s p (argByte payload 1) := by
  refine (withForm_ok hform).trans ?_
  rw [hp, portOf_portNumber]
  match argByte payload 1 with
  | 0 | 1 | 2 | 3 | 4 => rfl
  | n + 5 => rfl

theorem readPart_bad {n : Nat} (h : 4 < n) : readPart s p n = refuse .badArg s := by
  match n, h with
  | n + 5, _ => rfl

/-- The parts of the clearing read (R167). -/
def clearPart (s : State) (p : Port) : Nat → Answer
  | 1 => ⟨.ok, byte (portNumber p) ++ byte 1 ++ countsOne (s.port p).counters, s.setPort p (s.port p).clearCounters⟩
  | 2 => ⟨.ok, byte (portNumber p) ++ byte 2 ++ countsTwo (s.port p).counters, s.setPort p (s.port p).clearCounters⟩
  | _ => refuse .badArg s

theorem readPortClearCommand_ok (h : Holder s r) (hform : formOk payload 2 = true)
    (hp : argByte payload 0 = portNumber p) : readPortClearCommand r payload s = clearPart s p (argByte payload 1) := by
  refine ((withClaim_holder h).trans (withForm_ok hform)).trans ?_
  rw [hp, portOf_portNumber]
  match argByte payload 1 with
  | 0 | 1 | 2 => rfl
  | n + 3 => rfl

theorem clearPart_bad {n : Nat} (h : n = 0 ∨ 2 < n) : clearPart s p n = refuse .badArg s := by
  match n, h with
  | 0, _ => rfl
  | n + 3, _ => rfl

/-- The part after a SET_PORT that disables a port in service (R109, R122, R133). -/
def disabledPort (s : State) (p : Port) (payload : List Byte) : State :=
  (s.setPort p { (s.port p).withSettings payload with commanded := .disabled }).leaveService p .disabled

theorem withPortSettings_port (s : State) (p : Port) (payload : List Byte) :
    (withPortSettings s p payload).port p = (s.port p).withSettings payload := State.port_setPort_self s p _

/-- The mode is taken by the unit with its new settings, which replace no state. -/
theorem withPortSettings_leave (h : s.inService p = true) :
    (withPortSettings s p payload).applyMode p .disabled = disabledPort s p payload := by
  have hservice : unitInService ((withPortSettings s p payload).port p) = true := by
    rw [withPortSettings_port]
    exact h
  rw [applyMode_leave hservice, withPortSettings_port]
  unfold withPortSettings disabledPort
  rw [setPort_setPort]

theorem withPortSettings_trunk (hactive : (s.port .t).state = .active) :
    (withPortSettings s .t payload).applyMode .t .listen =
      (s.setPort .t
        { (s.port .t).withSettings payload with
          commanded := .listen, state := .listen, blockTimer := none }).trunkLeavesActive := by
  have hstate : ((withPortSettings s .t payload).port .t).state = .active := by
    rw [withPortSettings_port]
    exact hactive
  rw [applyMode_trunk (mode := .listen) hstate (by rw [hstate]; exact nofun) nofun, withPortSettings_port]
  unfold withPortSettings servingUnit
  rw [setPort_setPort]
  have hservice : unitInService ((s.port .t).withSettings payload) = true := by
    unfold unitInService
    rw [show ((s.port .t).withSettings payload).state = .active from hactive]
    rfl
  rw [if_pos hservice]
  rfl

/-- Settles O42: the ways a mode is taken, the refusals, and the parts of both reads. -/
theorem portCommands : Obligations.PortCommands := by
  unfold Obligations.PortCommands
  intro s r f p he hp
  have hrun : s.device.state = .running := (Executing_running he).1
  refine ⟨fun hasks hholder hrange => ?set, fun hasks hholder hbad => ?bad, fun hasks hflag => ?read,
    fun hasks hflag hholder => ?clear⟩
  case set =>
    have hok := setPortArgsOk_iff.mpr hrange
    have hset := withPortSettings_port s p f.payload
    refine ⟨fun mode hmode hstate => ?_, fun mode hmode hon hne htrunk => ?_, fun hmode hblocked => ?_,
      fun hmode hservice hmark => ?_, fun hmode htrunk hactive hlocked => ?_, fun hmode htrunk hactive hlocked hgate => ?_⟩
    · refine completes_setPort he hasks hholder hp hmode hok ?_ hrun
      rw [applyMode_same (by rw [hset]; exact hstate), hset]
      exact setPort_setPort _ _ _ _
    · refine completes_setPort he hasks hholder hp hmode hok ?_ hrun
      rw [applyMode_serve (by rw [hset]; exact hne) hon (by rw [hset]; exact htrunk), hset]
      exact setPort_setPort _ _ _ _
    · refine completes_setPort (mode := .disabled) he hasks hholder hp hmode hok ?_ hrun
      rw [applyMode_unblock (by rw [hset]; exact hblocked), hset]
      exact setPort_setPort _ _ _ _
    · have hblocks := leaveService_blocks
        (s.setPort p { (s.port p).withSettings f.payload with commanded := .disabled }) p .disabled
      have hport := leaveService_port
        (s.setPort p { (s.port p).withSettings f.payload with commanded := .disabled }) p .disabled
      rw [State.port_setPort_self] at hport
      refine ⟨disabledPort s p f.payload, completes_setPort (mode := .disabled) he hasks hholder hp hmode hok
        (withPortSettings_leave hservice) ?_, hport, fun q hq => ?_, hblocks.stations, hblocks.rules, hblocks.agent,
        hblocks.device hmark, fun hslots hheld => ?_, hblocks.sources, fun hother => ?_, fun htrunk hactive hlocked => ?_,
        fun htrunk hactive hlocked hgate => ?_⟩
      · unfold disabledPort
        rw [hblocks.device hmark]
        exact hrun
      · exact ((leaveService_ports _ p .disabled).2 q hq).trans (s.port_setPort_other hq _)
      · have hsame : Releases (fun _ => 0) s
            (s.setPort p { (s.port p).withSettings f.payload with commanded := .disabled }) := .same rfl rfl rfl
        refine ((hsame.trans (leaveService_releases _ p .disabled)).congr (fun m => ?_) hslots hheld).2
        unfold egressRefs
        rw [State.port_setPort_self, Nat.zero_add]
        rfl
      · unfold disabledPort
        rw [leaveService_other _ (by rw [State.port_setPort_self]; exact hother)]
        exact leftService_lock _ p .disabled
      · subst htrunk
        exact leaveService_unlocked _ (by rw [State.port_setPort_self]; exact hactive) hlocked
      · subst htrunk
        exact leaveService_locked _ (by rw [State.port_setPort_self]; exact hactive) hlocked hgate
    · subst htrunk
      refine completes_setPort (mode := .listen) he hasks hholder hp hmode hok ?_ hrun
      rw [withPortSettings_trunk hactive, trunkLeavesActive_unlocked_eq (by exact hlocked)]
      rfl
    · subst htrunk
      refine ⟨_, ?_, rfl⟩
      refine completes_setPort (mode := .listen) he hasks hholder hp hmode hok ?_ ?_
      · rw [withPortSettings_trunk hactive, trunkLeavesActive_locked_eq (by exact hlocked)]
        refine (loseSync_eq ?_ 1).trans rfl
        exact hgate
      · exact hrun
  case bad =>
    have hmine := isCommand_of_asks hasks
    by_cases hmode : 2 < argByte f.payload 1
    · exact completes he rfl hmine (setPortCommand_noMode hholder hasks.2 hmode) hrun
    · obtain ⟨mode, hmode'⟩ := exists_mode_of_le (Nat.not_lt.mp hmode)
      refine completes he rfl hmine ((setPortCommand_ok hholder hasks.2 hp hmode').trans (if_neg fun hok => ?_)) hrun
      exact hbad.elim (fun h => h (setPortArgsOk_iff.mp hok)) hmode
  case read =>
    have hmine := isRead_of_asks hasks hflag
    have hanswer := readPortCommand_ok (r := r) (s := s) hasks.2 hp
    refine ⟨fun h => ?_, fun h => ?_, fun h => ?_, fun h => ?_, fun h => ?_, fun h => ?_⟩
    case refine_6 => exact completes he rfl hmine (hanswer.trans (readPart_bad h)) hrun
    all_goals exact completes he rfl hmine (hanswer.trans (congrArg (readPart s p) h)) hrun
  case clear =>
    have hmine := isRead_of_asks hasks hflag
    have hanswer := readPortClearCommand_ok hholder hasks.2 hp
    refine ⟨fun h => ?_, fun h => ?_, fun h => ?_⟩
    case refine_3 => exact completes he rfl hmine (hanswer.trans (clearPart_bad h)) hrun
    all_goals exact completes he rfl hmine (hanswer.trans (congrArg (clearPart s p) h)) hrun

end Sys2Proof.Machine
end

section
/-! SUPPORT. The two restarts by command (8.9): RESTART TRAFFIC in its one event, block by block, and the execution of RESTART
FULL, whose reply is marked or whose loss is reported; and the statements that collect these facts. -/

namespace Sys2Proof.Machine

open Sys2Proof.Safety

variable {s : State} {r : Request} {f : Frame} {payload : List Byte}

/-! ## RESTART TRAFFIC (R207) -/

/-- Without a marked reply, stopping every egress leaves device control as it was (R111). -/
theorem stopAll_unmarked (h : s.device.restartMark = none) : s.stopAll.device = s.device := by
  have hone : ∀ (u : State) (p : Port), u.device = s.device → (u.stopEgress p).device = s.device := fun u p hu =>
    ((stopEgress_only u p).unmarked (by rw [hu]; exact h)).trans hu
  exact hone _ .b4 (hone _ .b3 (hone _ .b2 (hone _ .b1 (hone _ .t rfl))))

/-- What RESTART TRAFFIC makes of the part, in terms of the part with every egress stopped. -/
theorem restartTraffic_eq (s : State) :
    s.restartTraffic =
      { s.stopAll with
        rules := s.rules.restartTraffic
        stations := s.stations.restartTraffic
        meters := { s.meters with meters := s.meters.meters.map (Meter.restartTraffic s.meters.gateOpen) }
        ports := s.stopAll.ports.map PortUnit.restartTraffic
        notices := { s.notices.restartTraffic with offerDue := s.stopAll.notices.offerDue }
        store := { s.store with slots := s.stopAll.store.slots, held := s.stopAll.store.held }
        sync := s.sync
        agent := s.agent } := by
  have honly := stopAll_only s
  unfold State.restartTraffic
  generalize s.stopAll = u at honly
  rw [honly]
  rfl

theorem restartTraffic_port (s : State) (p : Port) :
    s.restartTraffic.port p =
      { s.port p with counters := .zero, errorCount := 0, egress := stoppedEgress (s.port p).egress } := by
  have hport := stopAll_port s p
  have hmap : s.restartTraffic.port p = (s.stopAll.port p).restartTraffic := PerPort.get_map _ _ _
  rw [hmap, hport]
  rfl

theorem restartTraffic_releases (s : State) : Releases (allEgressRefs s) s s.restartTraffic := by
  have hstopped := stopAll_releases s
  rw [restartTraffic_eq]
  generalize s.stopAll = u at hstopped
  exact releases_then_same hstopped rfl rfl rfl

theorem restartTraffic_bank (s : State) (name : BankName) :
    (s.rules.restartTraffic).bank name =
      { s.rules.bank name with
        positions := mapValues (fun x => { x with hits := 0 }) (s.rules.bank name).positions } := by
  cases name <;> rfl

theorem restartTrafficCommand_ok (h : Holder s r) (hform : formOk payload 1 = true) (hkind : argByte payload 0 ≤ 1) :
    restartTrafficCommand r payload s = ⟨.ok, [], s.restartTraffic⟩ :=
  ((withClaim_holder h).trans (withForm_ok hform)).trans (if_pos (decide_eq_true hkind))

/-- Settles O49, block by block. -/
theorem restartTraffic : Obligations.RestartTraffic := by
  unfold Obligations.RestartTraffic
  intro s r f he hasks hkind hholder hmark
  have hrun : s.device.state = .running := (Executing_running he).1
  have hports := restartTraffic_port s
  have hreleases := restartTraffic_releases s
  have hdevice := stopAll_unmarked hmark
  have hanswer := restartTrafficCommand_ok hholder hasks.2 (Nat.le_of_eq hkind)
  have heq := restartTraffic_eq s
  generalize s.restartTraffic = t at hports hreleases hanswer heq
  generalize s.stopAll = u at heq hdevice
  subst heq
  refine ⟨_, completes he rfl (isForm_of hasks.1 (by rw [hkind]; decide)) hanswer ?running, fun bank => ?banks,
    rfl, rfl, rfl, rfl, ?meters, hports, fun hslots hheld => (hreleases hslots hheld).2, rfl, rfl, rfl, rfl, hdevice,
    fun q => PerSource.get_map _ _ _, rfl, rfl, rfl, rfl, rfl, rfl, rfl⟩
  case running =>
    show u.device.state = .running
    rw [hdevice]
    exact hrun
  case banks =>
    dsimp only
    rw [restartTraffic_bank]
    exact ⟨rfl, fun k => lookup_mapValues (fun x : Position => { x with hits := 0 }) k _⟩
  case meters =>
    refine congrArg (MeterBank.mk · s.meters.gateOpen) (List.map_congr_left fun m _ => ?_)
    unfold Meter.restartTraffic startTimer
    cases m.mode <;> rfl

/-! ## RESTART FULL (R183, R204) -/

theorem restartFullCommand_ok (h : Holder s r) (hform : formOk payload 1 = true) (hkind : argByte payload 0 ≤ 1) :
    restartFullCommand r payload s =
      ⟨.ok, byte s.agent.restartCount, { s with device := { s.device with state := .restarting } }⟩ :=
  ((withClaim_holder h).trans (withForm_ok hform)).trans (if_pos (decide_eq_true hkind))

/-- What device control takes of the reply: its slot, or the report that it was not placed (R111). -/
def markedDevice (pl : Placed) (d : Device) : Device :=
  match pl with
  | .placed n => { d with restartMark := some n }
  | _ => { d with restartDue := true }

/-- The offer of a RESTART FULL's reply is that of any other, but for the mark. -/
theorem offeredReply_marked (r : Request) (f : Frame) (a : Answer) :
    offeredReply r f true a =
      { offeredReply r f false a with
        device :=
          markedDevice ((restartClaimTimer r.source a.state).placeOwn r.port (buildReply r f a)).1
            (offeredReply r f false a).device } := by
  unfold offeredReply
  dsimp only
  generalize (restartClaimTimer r.source a.state).placeOwn r.port (buildReply r f a) = out
  obtain ⟨pl, u⟩ := out
  cases pl <;> rfl

/-- Step 6 outside RUNNING: the request's slot is released and the execution position stays empty (R144). -/
theorem endExecution_stopped (r : Request) (s : State) (hr : (s.releaseRef r.slot).device.state ≠ .running) :
    endExecution r s =
      { s.releaseRef r.slot with agent := { (s.releaseRef r.slot).agent with executing := none } } :=
  takeRequest_idle _ hr

/-- The answer to a RESTART FULL that is carried out (R183). -/
def restartedAnswer (s : State) : Answer :=
  ⟨.ok, byte s.agent.restartCount, { s with device := { s.device with state := .restarting } }⟩

theorem releaseRef_device (s : State) (n : Nat) : (s.releaseRef n).device = s.device := by
  rcases releaseRef_cases s n with ⟨-, h⟩ | ⟨x, -, -, h⟩ | ⟨x, -, -, h⟩ <;> rw [h]
  rfl

/-- What the reply's offer leaves of device control and of REPLY_LOST (R148, R204). -/
theorem offeredReply_restarted (r : Request) (f : Frame) (hmark : s.device.restartMark = none) :
    (replyCannotBePlaced s r.port ∧
      (offeredReply r f true (restartedAnswer s)).device = { s.device with state := .restarting, restartDue := true } ∧
      (offeredReply r f true (restartedAnswer s)).agent.replyLost = s.agent.replyLost + 1) ∨
    (¬ replyCannotBePlaced s r.port ∧
      (offeredReply r f true (restartedAnswer s)).device =
        { s.device with state := .restarting, restartMark := s.lowestFreeSlot } ∧
      (offeredReply r f true (restartedAnswer s)).agent.replyLost = s.agent.replyLost) := by
  obtain ⟨u, hu, hut⟩ := offeredReply_only r f (restartedAnswer s)
  have hdevice : u.device = { s.device with state := .restarting } := hu.unmarked hmark
  rw [offeredReply_agent, offeredReply_marked, hut]
  dsimp only
  rw [hdevice]
  have hiff : replyCannotBePlaced (restartClaimTimer r.source (restartedAnswer s).state) r.port ↔
      replyCannotBePlaced s r.port := by rw [restartClaimTimer_eq]; exact Iff.rfl
  have hfree : (restartClaimTimer r.source (restartedAnswer s).state).lowestFreeSlot = s.lowestFreeSlot := by
    rw [restartClaimTimer_eq]
    rfl
  rcases placeOwn_placed_iff (restartClaimTimer r.source (restartedAnswer s).state) r.port
    (buildReply r f (restartedAnswer s)) with ⟨hcannot, hnot⟩ | ⟨hcan, n, hn, hplaced⟩
  · refine .inl ⟨hiff.mp hcannot, ?_⟩
    generalize ((restartClaimTimer r.source (restartedAnswer s).state).placeOwn r.port
      (buildReply r f (restartedAnswer s))).1 = pl at hnot
    cases pl with
    | placed n => exact absurd rfl (hnot n)
    | noSlot | notOffered | queueFull => exact ⟨rfl, rfl⟩
  · refine .inr ⟨fun h => hcan (hiff.mpr h), ?_⟩
    rw [hplaced, ← hfree, hn]
    dsimp only
    exact ⟨rfl, BitVec.add_zero _⟩

/-- Settles O50: the offer of the reply, its mark, and the end of the execution in RESTARTING. -/
theorem restartFull : Obligations.RestartFull := by
  unfold Obligations.RestartFull
  intro s r f he hasks hkind hholder hmark hdue
  obtain ⟨-, hlow, -⟩ := Executing_running he
  have hanswer : restartFullCommand r f.payload s = restartedAnswer s :=
    restartFullCommand_ok hholder hasks.2 (Nat.le_of_lt (by rw [hkind]; exact Nat.one_pos))
  have hexec := exec_restartFull he (isForm_of hasks.1 (by rw [hkind]; decide))
  rw [hanswer, completeRequest_eq] at hexec
  obtain ⟨u, hu, hut⟩ := offeredReply_only r f (restartedAnswer s)
  have hagent := offeredReply_agent r f true (restartedAnswer s)
  have hcases := offeredReply_restarted r f hmark
  have hmarked := offeredReply_marked r f (restartedAnswer s)
  rw [hut] at hmarked
  change exec .restartFull s = .next (endExecution r (offeredReply r f true (restartedAnswer s))) at hexec
  generalize offeredReply r f true (restartedAnswer s) = w at hexec hagent hcases hmarked
  have hdevice := releaseRef_device w r.slot
  have hstopped : (w.releaseRef r.slot).device.state = .restarting := by
    rw [hdevice]
    rcases hcases with ⟨-, hd, -⟩ | ⟨-, hd, -⟩ <;> rw [hd]
  have hheld : w.device.sweeping = s.device.sweeping ∧ w.device.resetHeld = s.device.resetHeld := by
    rcases hcases with ⟨-, hd, -⟩ | ⟨-, hd, -⟩ <;> rw [hd] <;> exact ⟨rfl, rfl⟩
  rw [endExecution_stopped r w (by rw [hstopped]; exact nofun)] at hexec
  have hrel := releaseRef_only w r.port r.slot
  have hrelAgent : (w.releaseRef r.slot).agent = w.agent := hrel.agent
  generalize w.releaseRef r.slot = v at hexec hdevice hstopped hrel hrelAgent
  have hrules : v.rules = s.rules := hrel.rules.trans (by rw [hmarked]; exact hu.rules)
  have hv := hrelAgent.trans hagent
  have hkept : v.agent.queue = s.agent.queue ∧ v.agent.restartCount = s.agent.restartCount ∧
      v.agent.claim = renewedClaim r.source s.agent.claim ∧
      v.agent.cache =
        (s.agent.cache ++ [(⟨r.source, r.id, buildReply r f (restartedAnswer s)⟩ : CacheEntry)]).drop
          (s.agent.cache.length + 1 - Config.cacheDepth) := by
    rw [hv]
    exact ⟨rfl, rfl, rfl, rfl⟩
  obtain ⟨hqueue, hcount, hclaim, hcache⟩ := hkept
  refine ⟨_, hexec, hstopped, fun hcannot => ?_, fun hcan => ?_, (congrArg Device.sweeping hdevice).trans hheld.1,
    (congrArg Device.resetHeld hdevice).trans (hheld.2.trans hlow), rfl, hqueue, hcount, hclaim,
    ⟨buildReply r f (restartedAnswer s), hcache, ?_⟩, hrules, ?_, ?_, ?_, ?_, fun q hq => ?_⟩
  · rcases hcases with ⟨-, hd, hl⟩ | ⟨hcan, -, -⟩
    · dsimp only
      rw [hdevice, hrelAgent, hd, hl]
      exact ⟨hmark, rfl, rfl⟩
    · exact absurd hcannot hcan
  · rcases hcases with ⟨hcannot, -, -⟩ | ⟨-, hd, hl⟩
    · exact absurd hcannot hcan
    · dsimp only
      rw [hdevice, hrelAgent, hd, hl]
      exact ⟨rfl, hdue, rfl⟩
  · dsimp only
    rw [hv, hrules]
    rfl
  · exact hrel.stations.trans (by rw [hmarked]; exact hu.stations)
  · exact hrel.meters.trans (by rw [hmarked]; exact hu.meters)
  · exact hrel.sync.trans (by rw [hmarked]; exact hu.sync)
  · exact hrel.awaiting.trans (by rw [hmarked]; exact hu.awaiting)
  · refine (hrel.others q hq).trans ?_
    rw [hmarked]
    exact hu.others q hq

end Sys2Proof.Machine
end

section
/-! SUPPORT. Selection (5.5, 5.6): one law for each turn of it, in terms of the head that it takes (`TakesHead`); and the
statements on placements at a sending transmitter, on what a selection sends and on stale heads. -/

namespace Sys2Proof.Machine

open Sys2Proof.Safety

variable {s : State} {p : Port} {c : BitVec 2} {n : Nat} {rest : List Nat} {e e' : Egress} {r : Round}

/-! ## The turns of a selection (R99, R104, R106) -/

theorem select_eq (hp : s.inService p = true) (ht : (s.port p).egress.transmitter = none) :
    s.select p = s.selectLoop ((s.port p).egress.queued + 1) p := if_pos ⟨hp, ht⟩

theorem select_sending {m : Nat} (h : (s.port p).egress.transmitter = some m) : s.select p = s :=
  if_neg (fun hcond => by rw [h] at hcond; exact nomatch hcond.2)

/-- With no head to take a selection leaves the part as it is. -/
theorem select_none (h : (s.port p).egress.head = none) : s.select p = s := by
  unfold State.select
  split
  · rw [State.selectLoop, h]
  · rfl

theorem select_fresh (hp : s.inService p = true) (ht : (s.port p).egress.transmitter = none)
    (h : (s.port p).egress.head = some (c, n, e)) (hf : s.isStale p n = false) :
    s.select p = s.startTransmission p c n e := by
  rw [select_eq hp ht, State.selectLoop, h]
  simp only [hf, Bool.false_eq_true, if_false]

theorem isStale_iff : s.isStale p n = true ↔ staleAt s p n := by
  unfold State.isStale staleAt
  cases s.slot n with
  | none => exact ⟨nofun, fun ⟨_, h, _⟩ => nomatch h⟩
  | some x =>
    simp only [Bool.and_eq_true, decide_eq_true_iff]
    exact ⟨fun h => ⟨x, rfl, h⟩, fun ⟨y, hy, h⟩ => by cases hy; exact h⟩

theorem isStale_of_fresh (h : freshAt s p n) : s.isStale p n = false := by
  obtain ⟨x, hx, hfresh⟩ := h
  refine Bool.eq_false_iff.mpr fun hstale => ?_
  obtain ⟨y, hy, hlimit, hold⟩ := isStale_iff.mp hstale
  rw [hx] at hy
  cases hy
  exact hfresh.elim hlimit (fun h => absurd hold (Nat.not_lt.mpr h))

theorem isStale_of_no_limit (h : (s.port p).egress.residency = 0) (n : Nat) : s.isStale p n = false := by
  refine Bool.eq_false_iff.mpr fun hstale => ?_
  obtain ⟨y, -, hlimit, -⟩ := isStale_iff.mp hstale
  exact hlimit h

/-- A discard leaves the port in service, its transmitter as it was and one entry less to try. -/
theorem select_stale (hp : s.inService p = true) (ht : (s.port p).egress.transmitter = none)
    (h : (s.port p).egress.head = some (c, n, e)) (hstale : s.isStale p n = true) :
    s.select p = (s.discardStale p c n e).select p := by
  obtain ⟨⟨rest, hrest⟩, hqueued, htransmitter⟩ := head_queue h
  have hservice : (s.discardStale p c n e).inService p = true := by
    rw [(discardStale_only (Egress.head_mem h).2.1).inService_eq]
    exact hp
  have hegress := discardStale_egress s p c n e
  have hidle : ((s.discardStale p c n e).port p).egress.transmitter = none := by
    rw [hegress, takeHead_transmitter, htransmitter]
    exact ht
  rw [select_eq hp ht, State.selectLoop, h, select_eq hservice hidle, hegress, queued_takeHead hrest, hqueued]
  simp only [hstale, if_true]

/-! ## The head that a selection takes (R100 to R102) -/

theorem closed_eq : Round.closed = ⟨0, 0, 0⟩ := rfl

theorem openRound_eq (e : Egress) :
    e.openRound =
      ⟨if e.q2 = [] then 0 else e.share2, if e.q1 = [] then 0 else e.share1, if e.q0 = [] then 0 else e.share0⟩ := by
  unfold Egress.openRound
  simp only [List.isEmpty_iff]

theorem servedRound_eq (e : Egress) :
    e.servedRound =
      if e.round = ⟨0, 0, 0⟩ then
        ⟨if e.q2 = [] then 0 else e.share2, if e.q1 = [] then 0 else e.share1, if e.q0 = [] then 0 else e.share0⟩
      else e.round := by
  unfold Egress.servedRound
  rw [openRound_eq, closed_eq]

theorem head_of_takesHead (h : TakesHead e c n rest r) : e.head = some (c, n, { e with round := r }) := by
  obtain ⟨hq, ⟨rfl, rfl⟩ | ⟨hc, hq3, hr, hleft, hbelow⟩⟩ := h
  · exact head_three hq
  · rw [← servedRound_eq] at hr
    rw [hr] at hleft hbelow ⊢
    exact head_member hq3 (highest_iff.mpr ⟨hc, hleft, hbelow⟩) hq

theorem takesHead_of_head (h : e.head = some (c, n, e')) : ∃ rest r, TakesHead e c n rest r := by
  rcases Egress.head_cases h with ⟨rest, hq, rfl, rfl⟩ | ⟨hq3, -, hhighest, rest, hq⟩
  · exact ⟨rest, _, hq, .inl ⟨rfl, rfl⟩⟩
  · obtain ⟨hc, hleft, hbelow⟩ := highest_iff.mp hhighest
    exact ⟨rest, _, hq, .inr ⟨hc, hq3, servedRound_eq e, hleft, hbelow⟩⟩

theorem setLeft_left (r : Round) (c : BitVec 2) : r.setLeft c (r.left c) = r := by
  unfold Round.setLeft Round.left
  repeat' split
  all_goals rfl

theorem setQueue_withRound (e : Egress) (r : Round) (c : BitVec 2) (q : List Nat) :
    ({ e with round := r } : Egress).setQueue c q = { e.setQueue c q with round := r } := by
  rcases cls_cases c with rfl | rfl | rfl | rfl <;> rfl

/-- The head leaves its queue; a member's round is the served one, with that share. -/
theorem takeHead_of_takesHead (h : TakesHead e c n rest r) (sent : Bool) :
    ({ e with round := r } : Egress).takeHead c sent =
      { e.setQueue c rest with
        round :=
          if c = 3 then r else r.setLeft c (if rest = [] then 0 else if sent then r.left c - 1 else r.left c) } := by
  by_cases hc : c = 3
  · subst hc
    have hq : e.q3 = n :: rest := h.1
    rw [takeHead_three, if_pos rfl, setQueue_three]
    dsimp only
    rw [hq]
    rfl
  · rw [takeHead_member _ hc, if_neg hc, show ({ e with round := r } : Egress).queue c = n :: rest from h.1,
      setQueue_withRound]
    simp only [List.drop_one, List.tail_cons, List.isEmpty_iff]

/-- A stale head leaves its queue, and a member whose queue that empties leaves the round (R104). -/
theorem takeHead_stale (h : TakesHead e c n rest r) :
    ({ e with round := r } : Egress).takeHead c false =
      { e.setQueue c rest with round := if c ≠ 3 ∧ rest = [] then r.setLeft c 0 else r } := by
  rw [takeHead_of_takesHead h]
  by_cases hc : c = 3
  · rw [if_pos hc, if_neg (fun h => h.1 hc)]
  · rw [if_neg hc]
    by_cases hrest : rest = []
    · rw [if_pos hrest, if_pos ⟨hc, hrest⟩]
    · rw [if_neg hrest, if_neg Bool.false_ne_true, setLeft_left, if_neg (fun h : c ≠ 3 ∧ rest = [] => hrest h.2)]

theorem takeHead_sent (h : TakesHead e c n rest r) :
    ({ e with round := r } : Egress).takeHead c true =
      { e.setQueue c rest with
        round := if c = 3 then r else r.setLeft c (if rest = [] then 0 else r.left c - 1) } := by
  rw [takeHead_of_takesHead h]
  rfl

/-! ## A selection by the head it takes -/

theorem setEgress_count (s : State) (p : Port) (g : Egress) (k : Counter) :
    (s.setEgress p g).count p k =
      s.setPort p { s.port p with counters := (s.port p).counters.bump k, egress := g } := by
  unfold State.count State.setEgress
  rw [State.port_setPort_self, setPort_setPort]

theorem select_takes_fresh (hp : s.inService p = true) (ht : (s.port p).egress.transmitter = none)
    (h : TakesHead (s.port p).egress c n rest r) (hf : s.isStale p n = false) :
    s.select p =
      s.setEgress p
        { (s.port p).egress.setQueue c rest with
          round := if c = 3 then r else r.setLeft c (if rest = [] then 0 else r.left c - 1)
          transmitter := some n
          line := .startMark } := by
  rw [select_fresh hp ht (head_of_takesHead h) hf]
  unfold State.startTransmission
  rw [takeHead_sent h]

theorem select_takes_stale (hp : s.inService p = true) (ht : (s.port p).egress.transmitter = none)
    (h : TakesHead (s.port p).egress c n rest r) (hstale : s.isStale p n = true) :
    s.select p =
      (((s.setPort p
        { s.port p with
          counters := (s.port p).counters.bump .txStale
          egress :=
            { (s.port p).egress.setQueue c rest with
              round := if c ≠ 3 ∧ rest = [] then r.setLeft c 0 else r } }).reportEnd n).releaseRef n).select p := by
  rw [select_stale hp ht (head_of_takesHead h) hstale]
  unfold State.discardStale
  rw [takeHead_stale h, setEgress_count]

/-- With every queue empty there is no head, whatever the round. -/
theorem head_of_empty (h3 : e.q3 = []) (h2 : e.q2 = []) (h1 : e.q1 = []) (h0 : e.q0 = []) : e.head = none := by
  cases hh : e.head with
  | none => rfl
  | some x =>
    obtain ⟨rest, r, hq, -⟩ := takesHead_of_head (e := e) (c := x.1) (n := x.2.1) (e' := x.2.2) hh
    have hempty : e.queue x.1 = [] := queued_eq_zero_iff.mp (by unfold Egress.queued; rw [h3, h2, h1, h0]; rfl) x.1
    rw [hempty] at hq
    cases hq

/-! ## Which head is taken (R100 to R102) -/

theorem takesHead_three (h : e.q3 = n :: rest) : TakesHead e 3 n rest e.round := ⟨h, .inl ⟨rfl, rfl⟩⟩

/-- A member of the served round with no higher member is taken when class queue 3 is empty. -/
theorem takesHead_member (hc : c ≠ 3) (h3 : e.q3 = []) (hq : e.queue c = n :: rest) (hr : e.servedRound = r)
    (hleft : r.left c ≠ 0) (hbelow : ∀ d : BitVec 2, c.toNat < d.toNat → d ≠ 3 → r.left d = 0) : TakesHead e c n rest r :=
  ⟨hq, .inr ⟨hc, h3, hr.symm.trans (servedRound_eq e), hleft, hbelow⟩⟩

theorem cls_above_two {d : BitVec 2} (h : (2 : BitVec 2).toNat < d.toNat) : d = 3 := by
  revert d; decide

theorem takesHead_two (h3 : e.q3 = []) (hq : e.q2 = n :: rest) (hr : e.servedRound = r) (hleft : r.left2 ≠ 0) :
    TakesHead e 2 n rest r :=
  takesHead_member (by decide) h3 hq hr hleft (fun d hd hne => absurd (cls_above_two hd) hne)

theorem takesHead_one (h3 : e.q3 = []) (hq : e.q1 = n :: rest) (hr : e.servedRound = r) (h2 : r.left2 = 0)
    (hleft : r.left1 ≠ 0) : TakesHead e 1 n rest r := by
  refine takesHead_member (by decide) h3 hq hr hleft (fun d hd hne => ?_)
  rcases cls_cases d with rfl | rfl | rfl | rfl
  · exact absurd rfl hne
  · exact h2
  · exact absurd hd (by decide)
  · exact absurd hd (by decide)

theorem takesHead_zero (h3 : e.q3 = []) (hq : e.q0 = n :: rest) (hr : e.servedRound = r) (h2 : r.left2 = 0)
    (h1 : r.left1 = 0) (hleft : r.left0 ≠ 0) : TakesHead e 0 n rest r := by
  refine takesHead_member (by decide) h3 hq hr hleft (fun d hd hne => ?_)
  rcases cls_cases d with rfl | rfl | rfl | rfl
  · exact absurd rfl hne
  · exact h2
  · exact h1
  · exact absurd hd (by decide)

theorem servedRound_of_closed (h : e.round = ⟨0, 0, 0⟩) :
    e.servedRound =
      ⟨if e.q2 = [] then 0 else e.share2, if e.q1 = [] then 0 else e.share1, if e.q0 = [] then 0 else e.share0⟩ :=
  (servedRound_eq e).trans (if_pos h)

/-! ## Placement at a full queue and at a sending transmitter (R98) -/

theorem place_full (h : Config.queueDepth ≤ ((s.port p).egress.queue c).length) : s.place p c n = s.count p .txQFull :=
  if_pos (decide_eq_true h)

theorem place_room (h : ((s.port p).egress.queue c).length < Config.queueDepth) : s.place p c n = s.enqueue p c n :=
  if_neg (fun hfull => absurd (of_decide_eq_true hfull) (Nat.not_le.mpr h))

theorem enqueue_sending {m : Nat} {x : Slot} (ht : (s.port p).egress.transmitter = some m) (hx : s.slot n = some x) :
    s.enqueue p c n =
      { s.setEgress p ((s.port p).egress.setQueue c ((s.port p).egress.queue c ++ [n])) with
        store := { s.store with slots := put n { x with refs := x.refs + 1 } s.store.slots } } := by
  unfold State.enqueue
  dsimp only
  rw [select_sending (m := m) (by
    rw [addRef_port, State.port_setEgress_self]
    exact (setQueue_frame _ _ _).1.trans ht)]
  unfold State.addRef
  rw [show (s.setEgress p ((s.port p).egress.setQueue c ((s.port p).egress.queue c ++ [n]))).slot n = some x from hx]
  rfl

/-- Settles O31: the placements, and the selection of each class in an open and in a new round. -/
theorem placementAndSelection : Obligations.PlacementAndSelection := by
  unfold Obligations.PlacementAndSelection
  refine ⟨fun s p c n => ⟨place_full, fun m x hroom ht hx => (place_room hroom).trans (enqueue_sending ht hx)⟩,
    fun s p hp ht hlimit => ?_⟩
  have hfresh := isStale_of_no_limit hlimit
  refine ⟨fun n rest h3 => select_takes_fresh hp ht (takesHead_three h3) (hfresh n), fun h3 =>
    ⟨fun n rest h2 hl2 => ?open2, fun n rest h1 hl2 hl1 => ?open1, fun n rest h0 hl2 hl1 hl0 => ?open0,
      fun n rest hr h2 hs => ?new2, fun n rest hr h2 h1 hs => ?new1, fun n rest hr h2 h1 h0 hs => ?new0,
      fun _ h2 h1 h0 => select_none (head_of_empty h3 h2 h1 h0)⟩⟩
  case open2 =>
    have hopen : (s.port p).egress.servedRound = _ := servedRound_open (fun h => hl2 (by rw [h]; rfl))
    exact select_takes_fresh hp ht (takesHead_two h3 h2 hopen hl2) (hfresh n)
  case open1 =>
    have hopen : (s.port p).egress.servedRound = _ := servedRound_open (fun h => hl1 (by rw [h]; rfl))
    exact select_takes_fresh hp ht (takesHead_one h3 h1 hopen hl2 hl1) (hfresh n)
  case open0 =>
    have hopen : (s.port p).egress.servedRound = _ := servedRound_open (fun h => hl0 (by rw [h]; rfl))
    rw [select_takes_fresh hp ht (takesHead_zero h3 h0 hopen hl2 hl1 hl0) (hfresh n)]
    simp only [Round.setLeft, Round.left, hl2, hl1]
    rfl
  case new2 =>
    have hnew := servedRound_of_closed hr
    rw [h2, if_neg (List.cons_ne_nil n rest)] at hnew
    exact select_takes_fresh hp ht (takesHead_two h3 h2 hnew hs) (hfresh n)
  case new1 =>
    have hnew := servedRound_of_closed hr
    rw [h2, if_pos rfl, h1, if_neg (List.cons_ne_nil n rest)] at hnew
    exact select_takes_fresh hp ht (takesHead_one h3 h1 hnew rfl hs) (hfresh n)
  case new0 =>
    have hnew := servedRound_of_closed hr
    rw [h2, if_pos rfl, h1, if_pos rfl, h0, if_neg (List.cons_ne_nil n rest)] at hnew
    exact select_takes_fresh hp ht (takesHead_zero h3 h0 hnew rfl rfl hs) (hfresh n)

/-! ## Stale heads (R104) -/

theorem reportEnd_unmarked (h : s.device.restartMark ≠ some n) : s.reportEnd n = s := if_neg h

/-- The last reference frees the slot and offers it; an AGENT slot is counted against no port (R93, R96). -/
theorem releaseRef_last {x : Slot} (hx : s.slot n = some x) (h1 : x.refs ≤ 1) :
    s.releaseRef n =
      { s with
        store := { s.store with slots := remove n s.store.slots, held := lowerHeld s.store.held x.origin }
        notices := { s.notices with offerDue := true } } := by
  unfold State.releaseRef
  rw [hx]
  exact if_pos h1

theorem releaseRef_more {x : Slot} (hx : s.slot n = some x) (h1 : 1 < x.refs) :
    s.releaseRef n = s.setSlots (put n { x with refs := x.refs - 1 } s.store.slots) := by
  unfold State.releaseRef
  rw [hx]
  exact if_neg (Nat.not_le.mpr h1)

/-- Settles O32: the one AGENT entry, and then every head. -/
theorem staleHeadIsDiscarded : Obligations.StaleHeadIsDiscarded := by
  unfold Obligations.StaleHeadIsDiscarded
  refine ⟨fun s p n x hp ht hlimit h3 h2 h1 h0 hx hrefs horigin hmark hclock => ⟨fun hold => ?_, fun hyoung => ?_⟩,
    fun s p hp ht => ⟨fun c n rest r htakes => ⟨fun hstale => ?_, fun hfresh => ?_⟩, fun hno _ => ?_⟩⟩
  · rw [select_takes_stale hp ht (takesHead_three h3) (isStale_iff.mpr ⟨x, hx, hlimit, hold⟩),
      reportEnd_unmarked (by exact hmark), releaseRef_last (x := x) (by exact hx) (Nat.le_of_eq hrefs), horigin]
    refine select_none ?_
    refine head_of_empty (e := ((s.setPort p _).port p).egress) ?_ ?_ ?_ ?_ <;> rw [State.port_setPort_self]
    · rfl
    · exact h2
    · exact h1
    · exact h0
  · exact select_takes_fresh hp ht (takesHead_three h3) (isStale_of_fresh ⟨x, hx, .inr hyoung⟩)
  · exact select_takes_stale hp ht htakes (isStale_iff.mpr hstale)
  · exact select_takes_fresh hp ht htakes (isStale_of_fresh hfresh)
  · refine select_none ?_
    cases hh : (s.port p).egress.head with
    | none => rfl
    | some y =>
      obtain ⟨rest, r, htakes⟩ := takesHead_of_head (c := y.1) (n := y.2.1) (e' := y.2.2) hh
      exact absurd htakes (hno _ _ _ _)

end Sys2Proof.Machine
end

section
/-! SUPPORT. Placement at a port whose transmitter is SENDING or has nothing queued (5.4 to 5.6): what becomes of the port and of
the slot (`placedUnit`, `placedStands`), and of a frame that the part built itself (`ownFrameOffered`). -/

namespace Sys2Proof.Machine

open Sys2Proof.Safety

variable {s : State} {p : Port} {c : BitVec 2} {n : Nat} {e : Egress} {x : Slot}

/-! ## One entry alone in an egress -/

theorem setQueue_setQueue (e : Egress) (c : BitVec 2) (l m : List Nat) : (e.setQueue c l).setQueue c m = e.setQueue c m := by
  rcases cls_cases c with rfl | rfl | rfl | rfl <;> rfl

theorem setQueue_queue (e : Egress) (c : BitVec 2) : e.setQueue c (e.queue c) = e := by
  rcases cls_cases c with rfl | rfl | rfl | rfl <;> rfl

theorem setQueue_empty (hq : e.queued = 0) (c : BitVec 2) : e.setQueue c [] = e := by
  rw [← queued_eq_zero_iff.mp hq c, setQueue_queue]

theorem round_closed_of_empty (h : EgressOk e) (hq : e.queued = 0) : e.round = ⟨0, 0, 0⟩ := by
  have hleft : ∀ c, c ≠ 3 → e.round.left c = 0 := fun c hc =>
    Classical.not_not.mp (fun hne => (egressOk_iff.mp h).1 c hc hne (queued_eq_zero_iff.mp hq c))
  have h2 : e.round.left2 = 0 := hleft 2 (by decide)
  have h1 : e.round.left1 = 0 := hleft 1 (by decide)
  have h0 : e.round.left0 = 0 := hleft 0 (by decide)
  rw [show e.round = ⟨e.round.left2, e.round.left1, e.round.left0⟩ from rfl, h2, h1, h0]

/-- The one entry of an egress is the head that a selection takes, and when it has left, the round is as it was: a round that
the selection opened has this one member, and closes with it. -/
theorem takesHead_lone (hq : e.queued = 0) (h : c = 3 ∨ EgressOk e) (n : Nat) :
    ∃ r, TakesHead (e.setQueue c [n]) c n [] r ∧ (if c = 3 then r else r.setLeft c 0) = e.round := by
  by_cases hc : c = 3
  · subst hc
    exact ⟨e.round, takesHead_three rfl, rfl⟩
  have hok := h.resolve_left hc
  have hround := round_closed_of_empty hok hq
  have hempty := queued_eq_zero_iff.mp hq
  have h3 : e.q3 = [] := hempty 3
  have h2 : e.q2 = [] := hempty 2
  have h1 : e.q1 = [] := hempty 1
  have h0 : e.q0 = [] := hempty 0
  obtain ⟨-, -, -, hs2, hs1, hs0⟩ := hok
  simp only [if_neg hc, hround]
  have hserved := servedRound_of_closed (e := e.setQueue c [n]) ((setQueue_frame e c [n]).2.1.trans hround)
  rcases cls_cases c with rfl | rfl | rfl | rfl
  · exact absurd rfl hc
  · exact ⟨⟨e.share2, 0, 0⟩, takesHead_two h3 rfl (hserved.trans (by simp only [setQueue_two, h1, h0]; rfl))
      (Nat.ne_of_gt hs2), rfl⟩
  · exact ⟨⟨0, e.share1, 0⟩, takesHead_one h3 rfl (hserved.trans (by simp only [setQueue_one, h2, h0]; rfl)) rfl
      (Nat.ne_of_gt hs1), rfl⟩
  · exact ⟨⟨0, 0, e.share0⟩, takesHead_zero h3 rfl (hserved.trans (by simp only [setQueue_zero, h2, h1]; rfl)) rfl rfl
      (Nat.ne_of_gt hs0), rfl⟩

theorem isStale_eq_staleNow (hx : s.slot n = some x) : s.isStale p n = staleNow s p x := by
  unfold State.isStale staleNow
  rw [hx]
  exact (Bool.decide_and _ _).symm

theorem select_lone_fresh (hp : s.inService p = true) (he : (s.port p).egress = e.setQueue c [n])
    (ht : e.transmitter = none) (hq : e.queued = 0) (hok : c = 3 ∨ EgressOk e) (hf : s.isStale p n = false) :
    s.select p = s.setEgress p { e with transmitter := some n, line := .startMark } := by
  obtain ⟨r, htakes, hround⟩ := takesHead_lone hq hok n
  rw [select_takes_fresh hp (by rw [he]; exact (setQueue_frame e c [n]).1.trans ht) (by rw [he]; exact htakes) hf, he,
    setQueue_setQueue, setQueue_empty hq, if_pos rfl, hround]

theorem select_lone_stale (hp : s.inService p = true) (he : (s.port p).egress = e.setQueue c [n])
    (ht : e.transmitter = none) (hq : e.queued = 0) (hok : c = 3 ∨ EgressOk e) (hstale : s.isStale p n = true) :
    s.select p =
      ((s.setPort p { s.port p with counters := (s.port p).counters.bump .txStale, egress := e }).reportEnd n).releaseRef n := by
  obtain ⟨r, htakes, hround⟩ := takesHead_lone hq hok n
  have hround' : (if c ≠ 3 ∧ ([] : List Nat) = [] then r.setLeft c 0 else r) = e.round := by
    rw [← hround]
    by_cases hc : c = 3
    · rw [if_neg (fun h => h.1 hc), if_pos hc]
    · rw [if_pos ⟨hc, rfl⟩, if_neg hc]
  have hempty := queued_eq_zero_iff.mp hq
  rw [select_takes_stale hp (by rw [he]; exact (setQueue_frame e c [n]).1.trans ht) (by rw [he]; exact htakes) hstale, he,
    setQueue_setQueue, setQueue_empty hq, hround']
  refine select_none ?_
  unfold State.port
  rw [releaseRef_ports, reportEnd_ports]
  refine (congrArg (fun u : PortUnit => u.egress.head) (State.port_setPort_self s p _)).trans ?_
  exact head_of_empty (hempty 3) (hempty 2) (hempty 1) (hempty 0)

/-! ## Placement at an IDLE transmitter with empty queues (R98, R104, R106) -/

theorem addRef_eq (hx : s.slot n = some x) : s.addRef n = s.setSlots (put n { x with refs := x.refs + 1 } s.store.slots) := by
  unfold State.addRef
  rw [hx]

/-- The entry has joined its empty class queue and refers to the slot; the selection is still to come. -/
def joined (s : State) (p : Port) (c : BitVec 2) (n : Nat) (x : Slot) : State :=
  { s.setEgress p ((s.port p).egress.setQueue c [n]) with
    store := { s.store with slots := put n { x with refs := x.refs + 1 } s.store.slots } }

theorem enqueue_empty (hq : (s.port p).egress.queue c = []) (hx : s.slot n = some x) :
    s.enqueue p c n = (joined s p c n x).select p := by
  unfold State.enqueue
  dsimp only
  rw [hq, List.nil_append, addRef_eq (x := x) (by exact hx)]
  rfl

theorem joined_port (s : State) (p : Port) (c : BitVec 2) (n : Nat) (x : Slot) :
    (joined s p c n x).port p = { s.port p with egress := (s.port p).egress.setQueue c [n] } :=
  State.port_setEgress_self _ _ _

theorem joined_inService (s : State) (p : Port) (c : BitVec 2) (n : Nat) (x : Slot) :
    (joined s p c n x).inService p = s.inService p := by
  rw [inService_eq_unit, joined_port]
  rfl

theorem joined_slot (s : State) (p : Port) (c : BitVec 2) (n : Nat) (x : Slot) :
    (joined s p c n x).slot n = some { x with refs := x.refs + 1 } := lookup_put_self _ _ _

theorem joined_isStale (s : State) (p : Port) (c : BitVec 2) (n : Nat) (x : Slot) :
    (joined s p c n x).isStale p n = staleNow s p x := by
  rw [isStale_eq_staleNow (joined_slot s p c n x)]
  unfold staleNow
  rw [joined_port]
  rcases cls_cases c with rfl | rfl | rfl | rfl <;> rfl

theorem enqueue_idle_fresh (hp : s.inService p = true) (ht : (s.port p).egress.transmitter = none)
    (hq : (s.port p).egress.queued = 0) (hok : c = 3 ∨ EgressOk (s.port p).egress) (hx : s.slot n = some x)
    (hf : staleNow s p x = false) :
    s.enqueue p c n =
      { s.setEgress p { (s.port p).egress with transmitter := some n, line := .startMark } with
        store := { s.store with slots := put n { x with refs := x.refs + 1 } s.store.slots } } := by
  rw [enqueue_empty (queued_eq_zero_iff.mp hq c) hx, select_lone_fresh ((joined_inService s p c n x).trans hp) (by rw [joined_port]) ht hq hok
    ((joined_isStale s p c n x).trans hf)]
  unfold State.setEgress
  rw [joined_port]
  simp [joined, State.setEgress, State.setPort]

theorem reportEnd_withStore (s : State) (w : FrameStore) (n : Nat) :
    ({ s with store := w } : State).reportEnd n = { s.reportEnd n with store := w } := by
  unfold State.reportEnd
  dsimp only
  split <;> rfl

theorem enqueue_idle_stale (hp : s.inService p = true) (ht : (s.port p).egress.transmitter = none)
    (hq : (s.port p).egress.queued = 0) (hok : c = 3 ∨ EgressOk (s.port p).egress) (hx : s.slot n = some x)
    (h1 : 1 ≤ x.refs) (hstale : staleNow s p x = true) :
    s.enqueue p c n =
      ({ s.count p .txStale with store := { s.store with slots := put n x s.store.slots } } : State).reportEnd n := by
  rw [enqueue_empty (queued_eq_zero_iff.mp hq c) hx, select_lone_stale ((joined_inService s p c n x).trans hp) (by rw [joined_port]) ht hq hok
    ((joined_isStale s p c n x).trans hstale), joined_port]
  have hcounted : (joined s p c n x).setPort p
      { ({ s.port p with egress := (s.port p).egress.setQueue c [n] } : PortUnit) with
        counters := (s.port p).counters.bump .txStale, egress := (s.port p).egress } =
      { s.count p .txStale with
        store := { s.store with slots := put n { x with refs := x.refs + 1 } s.store.slots } } := by
    simp [joined, State.setEgress, State.setPort, State.count]
  rw [hcounted, reportEnd_withStore]
  refine (releaseRef_more (x := { x with refs := x.refs + 1 }) (by exact lookup_put_self _ _ _)
    (Nat.lt_add_of_pos_left h1)).trans ?_
  refine Eq.trans ?_ (reportEnd_withStore (s.count p .txStale) _ n).symm
  unfold State.setSlots
  dsimp only
  rw [put_put]
  rfl

/-! ## What a placement makes of the port and of the slot -/

/-- Slot `n` holds `x`, the transmitter of `p` is SENDING or nothing is queued there, and the round has no member without an
entry where the class is not 3: what the placement of one of its references in class queue `c` makes of `p` and `n`. -/
theorem place_settled (hp : s.inService p = true) (hok : c = 3 ∨ EgressOk (s.port p).egress) (hset : settledAt s p)
    (hx : s.slot n = some x) (h1 : 1 ≤ x.refs) :
    (s.place p c n).port p = placedUnit (s.port p) c n (staleNow s p x) ∧
    (s.place p c n).slot n =
      some { x with refs := x.refs + if placedStands (s.port p) c (staleNow s p x) then 1 else 0 } ∧
    ∀ m, m ≠ n → (s.place p c n).slot m = s.slot m := by
  unfold placedUnit placedStands
  by_cases hfull : 32 ≤ ((s.port p).egress.queue c).length
  · rw [place_full hfull, if_pos hfull, decide_eq_false (Nat.not_lt.mpr hfull)]
    exact ⟨State.port_setPort_self _ _ _, hx, fun _ _ => rfl⟩
  rw [place_room (Nat.not_le.mp hfull), if_neg hfull, decide_eq_true (Nat.not_le.mp hfull)]
  cases ht : (s.port p).egress.transmitter with
  | some m =>
    rw [enqueue_sending ht hx, if_pos (Option.some_ne_none m)]
    exact ⟨State.port_setEgress_self _ _ _, lookup_put_self _ _ _, fun k hk => lookup_put_other hk _ _⟩
  | none =>
    have hq := hset ht
    rw [if_neg (fun h => h rfl)]
    cases hstale : staleNow s p x with
    | false =>
      rw [enqueue_idle_fresh hp ht hq hok hx hstale]
      exact ⟨State.port_setEgress_self _ _ _, lookup_put_self _ _ _, fun k hk => lookup_put_other hk _ _⟩
    | true =>
      rw [enqueue_idle_stale hp ht hq hok hx h1 hstale, reportEnd_withStore]
      refine ⟨?_, lookup_put_self _ _ _, fun k hk => lookup_put_other hk _ _⟩
      refine (congrArg (fun ps : PerPort PortUnit => ps.get p) (reportEnd_ports _ n)).trans ?_
      exact State.port_setPort_self _ _ _

/-- A frame that the part builds is accepted now, so it is not stale. -/
theorem staleNow_own (s : State) (p : Port) (n : Nat) (y : Frame) :
    staleNow (s.fillSlot n y .agent 0) p ⟨y, .agent, s.store.clock, 0⟩ = false :=
  decide_eq_false (fun h => absurd h.2 (by
    rw [show (s.fillSlot n y .agent 0).store.clock - s.store.clock = 0 from Nat.sub_self _]
    exact Nat.not_lt_zero _))

/-- What a frame of the part's own, built for port `p`, makes of it when a slot is free (R94, R98, R148, R190). -/
theorem placeOwn_offered {y : Frame} (hn : s.lowestFreeSlot = some n) (hset : settledAt s p) :
    (s.placeOwn p y).2 = ownFrameOffered s p n y := by
  rcases placeOwn_cases s p y with ⟨h, -⟩ | ⟨m, hm, hi, ho⟩ | ⟨m, hm, hi, hq, ho⟩ | ⟨m, hm, hi, hq, ho⟩
  · exact nomatch hn.symm.trans h
  all_goals
    cases hn.symm.trans hm
    rw [ho]
    unfold ownFrameOffered
  · rw [if_pos hi]
  · have hfull : 32 ≤ ((s.port p).egress.queue 3).length := of_decide_eq_true hq
    rw [if_neg (by rw [hi]; decide), placedUnit, if_pos hfull, if_pos (show 32 ≤ (s.port p).egress.q3.length from hfull)]
    rfl
  · have hroom : ¬ 32 ≤ ((s.port p).egress.queue 3).length := of_decide_eq_false hq
    rw [if_neg (by rw [hi]; decide), placedUnit, if_neg hroom, if_neg (show ¬ 32 ≤ (s.port p).egress.q3.length from hroom)]
    have hslot : (s.fillSlot n y .agent 0).slot n = some ⟨y, .agent, s.store.clock, 0⟩ := lookup_put_self _ _ _
    cases ht : (s.port p).egress.transmitter with
    | some k =>
      rw [if_pos (Option.some_ne_none k)]
      dsimp only
      rw [enqueue_sending (m := k) (by exact ht) hslot]
      unfold State.fillSlot State.setSlots
      dsimp only
      rw [put_put]
      rfl
    | none =>
      rw [if_neg (fun h => h rfl), if_neg Bool.false_ne_true]
      dsimp only
      rw [enqueue_idle_fresh (s := s.fillSlot n y .agent 0) hi ht (hset ht) (.inl rfl) hslot (staleNow_own s p n y)]
      unfold State.fillSlot State.setSlots
      dsimp only
      rw [put_put]
      rfl

theorem placeOwn_without_slot {y : Frame} (hn : s.lowestFreeSlot = none) : s.placeOwn p y = (.noSlot, s) := by
  unfold State.placeOwn
  rw [hn]

end Sys2Proof.Machine
end

section
/-! SUPPORT. The service of the Notice Unit (9.2 to 9.4): which send waits at which source, what serving the sources in rank
order does, and one law for the send of the most urgent candidate; and the statement on NOTICE_SERVICE. -/

namespace Sys2Proof.Machine

open Sys2Proof.Safety

variable {s t u : State} {p : Port} {q r : Source} {n : Nat} {x : NoticeRecord}

/-! ## Which send waits (R186) -/

/-- A source has a send to make exactly when it is a candidate; with a resend due it is that one, else a first send. -/
theorem sendOf_eq_none : sendOf s r = none ↔ ¬ Candidate s r := by
  unfold sendOf Candidate
  cases hdue : (s.source r).resendDue with
  | true => cases hrecord : (s.source r).record <;> simp
  | false => cases heligible : eligible s r <;> simp

theorem sendOf_first (hdue : (s.source r).resendDue = false) (h : Candidate s r) : sendOf s r = some (s.firstSend r) := by
  have heligible : eligible s r = true := h.elim (fun h => absurd (hdue.symm.trans h.1) Bool.false_ne_true) And.right
  unfold sendOf
  rw [hdue, if_neg Bool.false_ne_true, if_pos heligible]

theorem sendOf_resend (hdue : (s.source r).resendDue = true) (h : (s.source r).record = some x) :
    sendOf s r = some (s.resendNotice r x) := by
  unfold sendOf
  rw [if_pos hdue, h]

/-- Whether a source is a candidate is read from the target, its own fields and the sources of smaller rank. -/
theorem candidate_of_unchanged (htarget : t.notices.target = s.notices.target)
    (hsource : ∀ k, sourceRank k ≤ sourceRank r → t.source k = s.source k) : Candidate t r ↔ Candidate s r := by
  have hheld : heldBack t r = heldBack s r := by
    unfold heldBack
    congr 1
    funext k
    by_cases hk : sourceRank k < sourceRank r
    · rw [hsource k (Nat.le_of_lt hk)]
    · rw [decide_eq_false hk, Bool.false_and, Bool.false_and]
  unfold Candidate eligible
  rw [hheld, hsource r (Nat.le_refl _), htarget]

/-- A source in service with no resend due is no candidate. -/
theorem not_candidate_of_record (hdue : (s.source r).resendDue = false) (h : (s.source r).record = some x) :
    ¬ Candidate s r := by
  rintro (⟨h1, -⟩ | ⟨-, h2⟩)
  · exact absurd (hdue.symm.trans h1) Bool.false_ne_true
  · unfold eligible NoticeSource.inService at h2
    rw [h] at h2
    simp at h2

/-! ## Serving in rank order (R187) -/

theorem serve_skip {l : List Source} (h : ∀ k ∈ l, ¬ Candidate s k) (m : List Source) : s.serve (l ++ m) = s.serve m := by
  induction l with
  | nil => rfl
  | cons k rest ih =>
    rw [List.cons_append, State.serve, sendOf_eq_none.mpr (h k List.mem_cons_self)]
    exact ih (fun j hj => h j (List.mem_cons_of_mem _ hj))

theorem serve_none (h : ∀ k, ¬ Candidate s k) (m : List Source) :
    s.serve m = { s with notices := { s.notices with waiting := false } } :=
  serve_nothing (fun k => sendOf_eq_none.mpr (h k)) m

/-- Without a free slot the first candidate's claim fails, and the service ends (R187). -/
theorem serve_without_slot (hslot : s.lowestFreeSlot = none) {l : List Source} (hq : q ∈ l) (h : Candidate s q) :
    s.serve l = s.deferService := by
  induction l with
  | nil => exact nomatch hq
  | cons k rest ih =>
    rw [State.serve]
    by_cases hk : Candidate s k
    · cases hsend : sendOf s k with
      | none => exact absurd hk (sendOf_eq_none.mp hsend)
      | some v => exact if_pos hslot
    · rw [sendOf_eq_none.mpr hk]
      exact ih ((List.mem_cons.mp hq).resolve_left (fun he => hk (he ▸ h)))

theorem serve_send {rest : List Source} (hslot : s.lowestFreeSlot = some n) (h : sendOf s q = some u) :
    s.serve (q :: rest) = u.serve rest := by
  rw [State.serve, h]
  exact if_neg (by rw [hslot]; exact Option.some_ne_none n)

theorem sourceRank_injective {q r : Source} (h : sourceRank q = sourceRank r) : q = r := by
  cases q <;> cases r <;> first | rfl | exact absurd h (by decide)

theorem allSources_split (q : Source) :
    ∃ pre post, allSources = pre ++ q :: post ∧ ∀ k ∈ pre, sourceRank k < sourceRank q :=
  ⟨allSources.take (sourceRank q), allSources.drop (sourceRank q + 1), by cases q <;> rfl, by cases q <;> decide⟩

/-- With `q` the most urgent candidate, its send done and no candidate left at `q` or before it, serving all sources is
serving all sources from the state that the send left. -/
theorem serve_most_urgent (hslot : s.lowestFreeSlot = some n) (hsend : sendOf s q = some u)
    (hurgent : ∀ k, sourceRank k < sourceRank q → ¬ Candidate s k)
    (hdone : ∀ k, sourceRank k ≤ sourceRank q → ¬ Candidate u k) : s.serve allSources = u.serve allSources := by
  obtain ⟨pre, post, hsplit, hpre⟩ := allSources_split q
  calc s.serve allSources = s.serve (q :: post) := by rw [hsplit, serve_skip (fun k hk => hurgent k (hpre k hk))]
    _ = u.serve post := serve_send hslot hsend
    _ = u.serve ((pre ++ [q]) ++ post) := (serve_skip (fun k hk => hdone k (by
        rcases List.mem_append.mp hk with hk | hk
        · exact Nat.le_of_lt (hpre k hk)
        · exact Nat.le_of_eq (congrArg sourceRank (List.mem_singleton.mp hk)))) post).symm
    _ = u.serve allSources := by rw [hsplit, List.append_assoc]; rfl

/-! ## The service event -/

/-- The service event has been taken: no cause and no slot offer is due. -/
def taken (s : State) : State := { s with notices := { s.notices with causeDue := false, offerDue := false } }

theorem takeService_acts (h : serviceActs s) : s.takeService = (taken s).serve allSources := by
  have hdue : s.notices.causeDue ∨ s.notices.offerDue := h.elim And.right .inr
  have hready : s.notices.waiting = false ∨ s.notices.offerDue := h.elim (fun h => .inl h.1) .inr
  exact (if_pos hdue).trans (if_pos hready)

theorem taken_deferService (s : State) :
    (taken s).deferService =
      { s with
        notices :=
          { s.notices with
            causeDue := false, offerDue := false, waiting := true
            deferred := if s.notices.waiting then s.notices.deferred else s.notices.deferred + 1 } } := by
  obtain ⟨_, _, _, _, _, _, _, ⟨_, _, _, _, waiting, _, _, _, _, _⟩, _, _, _⟩ := s
  cases waiting <;> rfl

theorem exec_noticeService (h : s.device.resetHeld = false) : exec .noticeService s = .next s.takeService :=
  congrArg Host.Outcome.next (if_pos h)

theorem taken_candidate : Candidate (taken s) r ↔ Candidate s r := Iff.rfl

/-! ## A send (R188, R190, R191) -/

theorem ownFrameOffered_keeps (s : State) (p : Port) (n : Nat) (y : Frame) :
    (ownFrameOffered s p n y).notices = s.notices ∧ (ownFrameOffered s p n y).agent = s.agent ∧
      (ownFrameOffered s p n y).device = s.device := by
  unfold ownFrameOffered
  split <;> exact ⟨rfl, rfl, rfl⟩

/-- The notice frame is read from the address, the target and the sources. -/
theorem noticeFrame_isNotice (hnotices : u.notices = s.notices) (hagent : u.agent = s.agent) (q : Source) (x : NoticeRecord) :
    IsNotice u q x (noticeFrame s q x) := by
  have hpending : pendingSet u = pendingSet s := by
    unfold pendingSet sourceSet State.source
    rw [hnotices]
  have hinService : inServiceSet u = inServiceSet s := by
    unfold inServiceSet sourceSet State.source
    rw [hnotices]
  unfold IsNotice
  rw [hpending, hinService, hnotices, hagent]
  exact ⟨rfl, rfl, rfl, rfl, rfl, rfl, rfl, recheck_check _, rfl⟩

/-- The service goes on from `u`, the part that a send at `q` leaves: its source is in service with no resend due, and the
sources of smaller rank are as they were. -/
theorem service_goes_on (hheld : s.device.resetHeld = false) (hacts : serviceActs s)
    (hurgent : ∀ k, sourceRank k < sourceRank q → ¬ Candidate s k) (hslot : s.lowestFreeSlot = some n)
    (hsend : sendOf (taken s) q = some u) (hdevice : u.device = s.device) (htarget : u.notices.target = s.notices.target)
    (hcause : u.notices.causeDue = false) (hoffer : u.notices.offerDue = false)
    (hrecord : (u.source q).record = some x) (hdue : (u.source q).resendDue = false)
    (hothers : ∀ k, k ≠ q → u.source k = s.source k) :
    exec .noticeService s = exec .noticeService (withOffer u) ∧
      ((∀ k, ¬ Candidate u k) →
        exec .noticeService s = .next { u with notices := { u.notices with waiting := false } }) := by
  have hdone : ∀ k, sourceRank k ≤ sourceRank q → ¬ Candidate u k := fun k hk => by
    by_cases hkq : k = q
    · rw [hkq]
      exact not_candidate_of_record hdue hrecord
    · have hlt : sourceRank k < sourceRank q := Nat.lt_of_le_of_ne hk (fun he => hkq (sourceRank_injective he))
      refine fun hc => hurgent k hlt ((candidate_of_unchanged htarget (fun j hj => hothers j ?_)).mp hc)
      rintro rfl
      exact absurd (Nat.lt_of_le_of_lt hj hlt) (Nat.lt_irrefl _)
  have hserve : exec .noticeService s = .next (u.serve allSources) := by
    rw [exec_noticeService hheld, takeService_acts hacts]
    exact congrArg Host.Outcome.next (serve_most_urgent (s := taken s) (by exact hslot) hsend hurgent hdone)
  have hagain : taken (withOffer u) = u := by
    unfold taken withOffer
    obtain ⟨_, _, _, _, _, _, _, notices, _, _, _⟩ := u
    cases notices
    cases hcause
    cases hoffer
    rfl
  refine ⟨?_, fun hnone => by rw [hserve, serve_none hnone]⟩
  rw [hserve, exec_noticeService (s := withOffer u) ((congrArg Device.resetHeld hdevice).trans hheld),
    takeService_acts (s := withOffer u) (.inr rfl), hagain]

/-- The service event taken, the sequence counter and the source `q` replaced, and the resend timer of `q` started. -/
def sentBy (s : State) (q : Source) (m : Nat) (source : NoticeSource) : State :=
  { s with
    notices :=
      { s.notices with
        causeDue := false, offerDue := false, sequence := m
        sources := s.notices.sources.set q { source with timer := some (s.notices.interval * 10) } } }

/-- A send that puts the record `x` in service at `q`, with no resend due: its frame is the notice of the part that it
leaves, and the service goes on. -/
theorem send_goes_on {m : Nat} {source : NoticeSource} (hheld : s.device.resetHeld = false)
    (hacts : serviceActs s) (hurgent : ∀ k, sourceRank k < sourceRank q → ¬ Candidate s k)
    (hslot : s.lowestFreeSlot = some n)
    (hsend : sendOf (taken s) q = some (ownFrameOffered (sentBy s q m source) p n (noticeFrame (sentBy s q m source) q x)))
    (hrecord : source.record = some x) (hdue : source.resendDue = false) :
    let u := ownFrameOffered (sentBy s q m source) p n (noticeFrame (sentBy s q m source) q x)
    IsNotice u q x (noticeFrame (sentBy s q m source) q x) ∧
      (exec .noticeService s = exec .noticeService (withOffer u) ∧
        ((∀ k, ¬ Candidate u k) →
          exec .noticeService s = .next { u with notices := { u.notices with waiting := false } })) := by
  obtain ⟨hnotices, hagent, hdevice⟩ :=
    ownFrameOffered_keeps (sentBy s q m source) p n (noticeFrame (sentBy s q m source) q x)
  have hself : ∀ u : State, u.notices = (sentBy s q m source).notices →
      u.source q = { source with timer := some (s.notices.interval * 10) } := fun u hu => by
    unfold State.source
    rw [hu]
    exact PerSource.get_set_self _ _ _
  have hothers : ∀ u : State, u.notices = (sentBy s q m source).notices → ∀ k, k ≠ q → u.source k = s.source k :=
    fun u hu k hk => by
      unfold State.source
      rw [hu]
      exact PerSource.get_set_other _ hk _
  refine ⟨noticeFrame_isNotice hnotices hagent q x, ?_⟩
  generalize ownFrameOffered _ _ _ _ = u at *
  refine service_goes_on (x := x) hheld hacts hurgent hslot hsend hdevice ?_ ?_ ?_ ?_ ?_ (hothers u hnotices)
  · rw [hnotices]; rfl
  · rw [hnotices]; rfl
  · rw [hnotices]; rfl
  · rw [hself u hnotices]; exact hrecord
  · rw [hself u hnotices]; exact hdue

/-- Settles O39: nothing due, WAITING without an offer, no candidate, no slot, and the two sends. -/
theorem noticeService : Obligations.NoticeService := by
  unfold Obligations.NoticeService
  intro s hheld
  refine ⟨fun hcause hoffer => ?_, fun hwaiting hcause hoffer => ?_, fun hacts hnone => ?_, fun q hacts hq hslot => ?_,
    fun q n hacts hq hurgent hslot hset => ⟨fun hdue => ?_, fun z hdue hz => ?_⟩⟩
  · rw [exec_noticeService hheld]
    exact congrArg Host.Outcome.next (if_neg (by rw [hcause, hoffer]; decide))
  · rw [exec_noticeService hheld]
    refine congrArg Host.Outcome.next ((if_pos (.inl hcause)).trans ((if_neg ?_).trans ?_))
    · rw [hwaiting, hoffer]
      decide
    · dsimp only
      rw [← hoffer]
  · rw [exec_noticeService hheld, takeService_acts hacts, serve_none (s := taken s) hnone]
    rfl
  · rw [exec_noticeService hheld, takeService_acts hacts, serve_without_slot (s := taken s) hslot (mem_allSources q) hq]
    exact congrArg Host.Outcome.next (taken_deferService s)
  · let x : NoticeRecord := ⟨nextSequence s, 1, (s.source q).occurrences, (s.source q).detail⟩
    let v : State := sentBy s q (nextSequence s) { s.source q with pending := false, occurrences := 0, record := some x }
    have hsend : sendOf (taken s) q = some (ownFrameOffered v s.notices.port n (noticeFrame v q x)) := by
      rw [sendOf_first (s := taken s) hdue hq]
      exact congrArg some (placeOwn_offered (s := v) hslot hset)
    obtain ⟨hnotice, hgoes⟩ := send_goes_on hheld hacts hurgent hslot hsend rfl hdue
    exact ⟨nextSequence s, _, nextSequence_spec s, hnotice, hgoes⟩
  · let x : NoticeRecord := { z with attempt := z.attempt + 1 }
    let v : State := sentBy s q s.notices.sequence { s.source q with resendDue := false, record := some x }
    have hsend : sendOf (taken s) q = some (ownFrameOffered v s.notices.port n (noticeFrame v q x)) := by
      rw [sendOf_resend (s := taken s) hdue hz]
      exact congrArg some (placeOwn_offered (s := v) hslot hset)
    exact ⟨_, send_goes_on hheld hacts hurgent hslot hsend rfl rfl⟩

end Sys2Proof.Machine
end

section
/-! SUPPORT. The end of a transmission (5.7): the part when the slot has been released and the report made, the free slot that
the last reference leaves, and a notice sent from it ahead of a lower class; and the statement on TRANSMIT_COMPLETE. -/

namespace Sys2Proof.Machine

open Sys2Proof.Safety

variable {s t u v : State} {p : Port} {q k : Source} {n m : Nat} {x : Slot} {rest : List Nat} {g : Egress}

/-! ## The part after the release and the report (R96, R107, R111) -/

/-- The port unit with TX_GOOD counted and its egress replaced. -/
def endedUnit (s : State) (p : Port) (g : Egress) : PortUnit :=
  { s.port p with counters := (s.port p).counters.bump .txGood, egress := g }

/-- The egress with its transmission ended. -/
def idleEgress (e : Egress) : Egress := { e with transmitter := none, line := .endMark }

/-- The last reference to slot `n` has left: the slot is free and a slot offer due. -/
def freedAt (s : State) (p : Port) (n : Nat) (x : Slot) (u : PortUnit) : State :=
  { s.setPort p u with
    store := { s.store with slots := remove n s.store.slots, held := lowerHeld s.store.held x.origin }
    notices := { s.notices with offerDue := true } }

/-- One reference of several to slot `n` has left. -/
def loweredAt (s : State) (p : Port) (n : Nat) (x : Slot) (u : PortUnit) : State :=
  { s.setPort p u with store := { s.store with slots := put n { x with refs := x.refs - 1 } s.store.slots } }

/-- The end of the marked reply's stay has been reported, when slot `n` is the marked one. -/
def reportedEnd (s : State) (n : Nat) (v : State) : State :=
  if s.device.restartMark = some n then { v with device := { s.device with restartMark := none, restartDue := true } } else v

theorem reportedEnd_unmarked (h : s.device.restartMark ≠ some n) (v : State) : reportedEnd s n v = v := if_neg h

theorem reportedEnd_marked (h : s.device.restartMark = some n) (v : State) :
    reportedEnd s n v = { v with device := { s.device with restartMark := none, restartDue := true } } := if_pos h

theorem count_setEgress (s : State) (p : Port) (c : Counter) (g : Egress) :
    (s.count p c).setEgress p g =
      s.setPort p { s.port p with counters := (s.port p).counters.bump c, egress := g } := by
  unfold State.setEgress
  rw [State.port_count_self, State.count, setPort_setPort]

theorem endTransmission_eq (s : State) (p : Port) (n : Nat) :
    s.endTransmission p n =
      ((s.setPort p (endedUnit s p (idleEgress (s.port p).egress))).reportEnd n).releaseRef n := by
  unfold State.endTransmission
  dsimp only
  rw [count_setEgress]
  rfl

theorem endTransmission_last (hx : s.slot n = some x) (h1 : x.refs = 1) :
    s.endTransmission p n = reportedEnd s n (freedAt s p n x (endedUnit s p (idleEgress (s.port p).egress))) := by
  rw [endTransmission_eq]
  by_cases hm : s.device.restartMark = some n
  · rw [reportedEnd_marked hm, State.reportEnd, if_pos (by exact hm),
      releaseRef_last (x := x) (by exact hx) (Nat.le_of_eq h1)]
    rfl
  · rw [reportedEnd_unmarked hm, reportEnd_unmarked (by exact hm), releaseRef_last (x := x) (by exact hx) (Nat.le_of_eq h1)]
    rfl

theorem endTransmission_more (hx : s.slot n = some x) (h1 : 1 < x.refs) :
    s.endTransmission p n = reportedEnd s n (loweredAt s p n x (endedUnit s p (idleEgress (s.port p).egress))) := by
  rw [endTransmission_eq]
  by_cases hm : s.device.restartMark = some n
  · rw [reportedEnd_marked hm, State.reportEnd, if_pos (by exact hm), releaseRef_more (x := x) (by exact hx) h1]
    rfl
  · rw [reportedEnd_unmarked hm, reportEnd_unmarked (by exact hm), releaseRef_more (x := x) (by exact hx) h1]
    rfl

/-- The report touches the device alone. -/
theorem reportedEnd_eq (s : State) (n : Nat) (v : State) (h : v.device = s.device) :
    reportedEnd s n v = { v with device := (reportedEnd s n v).device } ∧
      (reportedEnd s n v).device.resetHeld = s.device.resetHeld := by
  unfold reportedEnd
  split
  · exact ⟨rfl, rfl⟩
  · exact ⟨rfl, by rw [h]⟩

theorem exec_transmitComplete (hheld : s.device.resetHeld = false) (ht : (s.port p).egress.transmitter = some n) :
    exec (.transmitComplete p) s = .next (s.finishTransmission p n) := by
  refine congrArg Host.Outcome.next ((if_pos hheld).trans ?_)
  rw [ht]

/-! ## The selection that follows (R99, R107) -/

/-- The part `v` after the release and the report: the port's transmission has ended. -/
structure EndedAt (s v : State) (p : Port) : Prop where
  port : v.port p = endedUnit s p (idleEgress (s.port p).egress)
  inService : v.inService p = s.inService p

theorem EndedAt.of_port (h : v.port p = endedUnit s p (idleEgress (s.port p).egress)) : EndedAt s v p :=
  ⟨h, by rw [inService_eq_unit, h]; rfl⟩

theorem EndedAt.freed (s : State) (p : Port) (n : Nat) (x : Slot) :
    EndedAt s (freedAt s p n x (endedUnit s p (idleEgress (s.port p).egress))) p :=
  .of_port (State.port_setPort_self _ _ _)

theorem EndedAt.lowered (s : State) (p : Port) (n : Nat) (x : Slot) :
    EndedAt s (loweredAt s p n x (endedUnit s p (idleEgress (s.port p).egress))) p :=
  .of_port (State.port_setPort_self _ _ _)

theorem EndedAt.select_three (h : EndedAt s v p) (hp : s.inService p = true) (hlimit : (s.port p).egress.residency = 0)
    (h3 : (s.port p).egress.q3 = m :: rest) :
    v.select p =
      v.setPort p
        (endedUnit s p { (s.port p).egress with q3 := rest, transmitter := some m, line := .startMark }) := by
  have hegress : (v.port p).egress = idleEgress (s.port p).egress := congrArg PortUnit.egress h.port
  rw [select_takes_fresh (h.inService.trans hp) (by rw [hegress]; rfl) (by rw [hegress]; exact takesHead_three h3)
    (isStale_of_no_limit (by rw [hegress]; exact hlimit) m)]
  unfold State.setEgress
  rw [h.port]
  rfl

/-- With class queue 3 empty and no round open, the selection opens one and sends the head of class queue 2. -/
theorem EndedAt.select_two (h : EndedAt s v p) (hp : s.inService p = true) (hlimit : (s.port p).egress.residency = 0)
    (h3 : (s.port p).egress.q3 = []) (hround : (s.port p).egress.round = ⟨0, 0, 0⟩)
    (h2 : (s.port p).egress.q2 = m :: rest) (hshare : (s.port p).egress.share2 ≠ 0) :
    v.select p =
      v.setPort p
        (endedUnit s p
          { (s.port p).egress with
            q2 := rest, transmitter := some m, line := .startMark
            round :=
              ⟨if rest = [] then 0 else (s.port p).egress.share2 - 1,
                if (s.port p).egress.q1 = [] then 0 else (s.port p).egress.share1,
                if (s.port p).egress.q0 = [] then 0 else (s.port p).egress.share0⟩ }) := by
  have hegress : (v.port p).egress = idleEgress (s.port p).egress := congrArg PortUnit.egress h.port
  have hserved := servedRound_of_closed (e := idleEgress (s.port p).egress) hround
  rw [show (idleEgress (s.port p).egress).q2 = m :: rest from h2, if_neg (List.cons_ne_nil m rest)] at hserved
  rw [select_takes_fresh (h.inService.trans hp) (by rw [hegress]; rfl)
    (by rw [hegress]; exact takesHead_two h3 h2 hserved hshare)
    (isStale_of_no_limit (by rw [hegress]; exact hlimit) m)]
  unfold State.setEgress
  rw [h.port]
  rfl

theorem EndedAt.withDevice (h : EndedAt s v p) (d : Device) (c : Nat) : EndedAt s { v with device := d, choices := c } p :=
  ⟨h.port, h.inService⟩

theorem EndedAt.select_nothing (h : EndedAt s v p) (h3 : (s.port p).egress.q3 = []) (h2 : (s.port p).egress.q2 = [])
    (h1 : (s.port p).egress.q1 = []) (h0 : (s.port p).egress.q0 = []) : v.select p = v := by
  refine select_none ?_
  rw [h.port]
  exact head_of_empty h3 h2 h1 h0

theorem freedAt_setPort (s : State) (p : Port) (n : Nat) (x : Slot) (u w : PortUnit) :
    (freedAt s p n x u).setPort p w = freedAt s p n x w :=
  congrArg (fun v : State => ({ v with
    store := { s.store with slots := remove n s.store.slots, held := lowerHeld s.store.held x.origin }
    notices := { s.notices with offerDue := true } } : State)) (setPort_setPort s p u w)

theorem loweredAt_setPort (s : State) (p : Port) (n : Nat) (x : Slot) (u w : PortUnit) :
    (loweredAt s p n x u).setPort p w = loweredAt s p n x w :=
  congrArg (fun v : State => ({ v with
    store := { s.store with slots := put n { x with refs := x.refs - 1 } s.store.slots } } : State)) (setPort_setPort s p u w)

/-! ## The notice that the freed slot lets out (R107, R188) -/

theorem lowestFree_remove {fuel k n : Nat} {l : List (Nat × Slot)} (hr : rising l = true) (h : lowestFree fuel k l = none)
    (hk : k ≤ n) (hn : n < k + fuel) : lowestFree fuel k (remove n l) = some n := by
  induction fuel generalizing k with
  | zero => exact absurd hn (Nat.not_lt.mpr hk)
  | succ fuel ih =>
    unfold lowestFree at h ⊢
    by_cases hnk : n = k
    · rw [← hnk, lookup_remove_self hr]
    · rw [lookup_remove_other (Ne.symm hnk)]
      cases hl : lookup k l with
      | none => rw [hl] at h; cases h
      | some y =>
        rw [hl] at h
        exact ih h (by omega) (by omega)

/-- The first entry of class queue 3 is sent at once by an IDLE transmitter, whatever waits in the lower classes (R98,
R100). -/
theorem enqueue_first (hp : s.inService p = true) (ht : (s.port p).egress.transmitter = none)
    (h3 : (s.port p).egress.q3 = []) (hx : s.slot n = some x) (hfresh : staleNow s p x = false) :
    s.enqueue p 3 n =
      { s.setEgress p { (s.port p).egress with transmitter := some n, line := .startMark } with
        store := { s.store with slots := put n { x with refs := x.refs + 1 } s.store.slots } } := by
  have hegress : ((joined s p 3 n x).port p).egress = { (s.port p).egress with q3 := [n] } := by
    rw [joined_port]
    rfl
  have hback : ({ (s.port p).egress with q3 := [n] } : Egress).setQueue 3 [] = (s.port p).egress := by
    rw [setQueue_three]
    dsimp only
    rw [← h3]
  rw [enqueue_empty (by exact h3) hx,
    select_takes_fresh ((joined_inService _ p 3 n _).trans hp) (by rw [hegress]; exact ht)
      (by rw [hegress]; exact takesHead_three rfl) ((joined_isStale _ p 3 n _).trans hfresh), hegress, hback, if_pos rfl]
  unfold State.setEgress
  rw [joined_port]
  simp [joined, State.setEgress, State.setPort]

/-- A frame of the part's own is sent at once by an IDLE transmitter whose class queue 3 is empty (R98, R100, R104). -/
theorem placeOwn_first {y : Frame} (hn : s.lowestFreeSlot = some n) (hp : s.inService p = true)
    (ht : (s.port p).egress.transmitter = none) (h3 : (s.port p).egress.q3 = []) :
    (s.placeOwn p y).2 =
      { s.setEgress p { (s.port p).egress with transmitter := some n, line := .startMark } with
        store := { s.store with slots := put n ⟨y, .agent, s.store.clock, 1⟩ s.store.slots } } := by
  rcases placeOwn_cases s p y with ⟨h, -⟩ | ⟨m, hm, hi, ho⟩ | ⟨m, hm, hi, hq, ho⟩ | ⟨m, hm, hi, hq, ho⟩
  · exact nomatch hn.symm.trans h
  · exact absurd (hi.symm.trans hp) Bool.false_ne_true
  · exact absurd (of_decide_eq_true hq) (by rw [show (s.port p).egress.queue 3 = [] from h3]; decide)
  · cases hn.symm.trans hm
    rw [ho]
    dsimp only
    rw [enqueue_first (s := s.fillSlot n y .agent 0) hp ht h3 (lookup_put_self _ _ _) (staleNow_own s p n y)]
    unfold State.fillSlot State.setSlots
    dsimp only
    rw [put_put]
    rfl

/-- A source in service holds back every source behind it (R186). -/
theorem not_eligible_behind {z : NoticeRecord} (h : (s.source q).record = some z) (hk : sourceRank q < sourceRank k) :
    eligible s k = false := by
  have hheld : heldBack s k = true :=
    List.any_eq_true.mpr ⟨q, mem_allSources q, by
      rw [decide_eq_true hk, NoticeSource.inService, h]
      rfl⟩
  unfold eligible
  rw [hheld]
  simp

/-- The first send of the most urgent eligible source, when no resend is due, leaves no candidate (R186). -/
theorem no_candidate_after_first (hurgent : ∀ j, sourceRank j < sourceRank q → eligible s j = false)
    (hdue : ∀ j, (s.source j).resendDue = false) {z : NoticeRecord} (htarget : t.notices.target = s.notices.target)
    (hrecord : (t.source q).record = some z) (hself : (t.source q).resendDue = false)
    (hothers : ∀ j, j ≠ q → t.source j = s.source j) (k : Source) : ¬ Candidate t k := by
  rcases Nat.lt_trichotomy (sourceRank k) (sourceRank q) with hlt | heq | hgt
  · rw [candidate_of_unchanged htarget (fun j hj => hothers j (by
      rintro rfl
      exact absurd (Nat.lt_of_le_of_lt hj hlt) (Nat.lt_irrefl _)))]
    rintro (⟨h, -⟩ | ⟨-, h⟩)
    · exact absurd ((hdue k).symm.trans h) Bool.false_ne_true
    · exact absurd ((hurgent k hlt).symm.trans h) Bool.false_ne_true
  · rw [sourceRank_injective heq]
    exact not_candidate_of_record hself hrecord
  · have hne : k ≠ q := by
      rintro rfl
      exact absurd hgt (Nat.lt_irrefl _)
    rintro (⟨h, -⟩ | ⟨-, h⟩)
    · rw [hothers k hne, hdue k] at h
      exact Bool.false_ne_true h
    · exact absurd ((not_eligible_behind hrecord hgt).symm.trans h) Bool.false_ne_true

/-- The part that one notice, sent from slot `n` by the IDLE transmitter of the target port, leaves. -/
structure NoticeSent (s t : State) (p : Port) (q : Source) (n : Nat) : Prop where
  egress : (t.port p).egress = { (s.port p).egress with transmitter := some n, line := .startMark }
  record : (t.source q).record.isSome = true
  slot : ∃ y, t.slot n = some ⟨y, .agent, s.store.clock, 1⟩ ∧ y.kind = .notice

/-- A slot offer with one candidate, a first send, to a target port that is IDLE with an empty class queue 3. -/
theorem takeService_first (hoffer : s.notices.offerDue = true) (hslot : s.lowestFreeSlot = some n)
    (heligible : eligible s q = true) (hurgent : ∀ j, sourceRank j < sourceRank q → eligible s j = false)
    (hdue : ∀ j, (s.source j).resendDue = false) (hport : s.notices.port = p) (hp : s.inService p = true)
    (ht : (s.port p).egress.transmitter = none) (h3 : (s.port p).egress.q3 = []) :
    NoticeSent s s.takeService p q n := by
  let z : NoticeRecord := ⟨nextSequence s, 1, (s.source q).occurrences, (s.source q).detail⟩
  let w : State := sentBy s q (nextSequence s) { s.source q with pending := false, occurrences := 0, record := some z }
  have hcandidate : ∀ j, sourceRank j < sourceRank q → ¬ Candidate s j := fun j hj => by
    rintro (⟨h, -⟩ | ⟨-, h⟩)
    · exact absurd ((hdue j).symm.trans h) Bool.false_ne_true
    · exact absurd ((hurgent j hj).symm.trans h) Bool.false_ne_true
  have hsend : sendOf (taken s) q = some
      { w.setEgress p { (s.port p).egress with transmitter := some n, line := .startMark } with
        store := { s.store with slots := put n ⟨noticeFrame w q z, .agent, s.store.clock, 1⟩ s.store.slots } } := by
    rw [sendOf_first (s := taken s) (hdue q) (.inr ⟨hdue q, heligible⟩)]
    have hplaced := placeOwn_first (s := w) (y := noticeFrame w q z) hslot hp ht h3
    rw [← hport] at hplaced
    exact congrArg some (hplaced.trans (by rw [hport]; rfl))
  generalize hu : ({ w.setEgress p _ with store := _ } : State) = u at hsend
  have hnotices : u.notices = w.notices := by rw [← hu]; rfl
  have hnone : ∀ k, ¬ Candidate u k := no_candidate_after_first hurgent hdue (z := z) (by rw [hnotices]; rfl) ?_ ?_ ?_
  · rw [takeService_acts (.inr hoffer), serve_most_urgent (s := taken s) hslot hsend hcandidate (fun k _ => hnone k),
      serve_none hnone, ← hu]
    exact ⟨congrArg PortUnit.egress (State.port_setEgress_self _ _ _),
      congrArg (fun y : NoticeSource => y.record.isSome) (PerSource.get_set_self _ _ _),
      _, lookup_put_self _ _ _, rfl⟩
  · unfold State.source
    rw [hnotices]
    exact congrArg NoticeSource.record (PerSource.get_set_self _ _ _)
  · unfold State.source
    rw [hnotices]
    exact (congrArg NoticeSource.resendDue (PerSource.get_set_self _ _ _)).trans (hdue q)
  · intro j hj
    unfold State.source
    rw [hnotices]
    exact PerSource.get_set_other _ hj _

/-! ## TRANSMIT_COMPLETE -/

theorem complete_last (hheld : s.device.resetHeld = false) (ht : (s.port p).egress.transmitter = some n)
    (hx : s.slot n = some x) (h1 : x.refs = 1) (hnone : anyCandidate s = false) :
    exec (.transmitComplete p) s =
      .next ((reportedEnd s n (freedAt s p n x (endedUnit s p (idleEgress (s.port p).egress)))).select p) := by
  rw [exec_transmitComplete hheld ht, finishTransmission_settled, endTransmission_last hx h1]
  rw [endTransmission_last hx h1, (reportedEnd_eq s n (freedAt s p n x _) rfl).1]
  exact .inr ((anyCandidate_congr rfl rfl).trans hnone)

theorem complete_more (hheld : s.device.resetHeld = false) (ht : (s.port p).egress.transmitter = some n)
    (hx : s.slot n = some x) (h1 : 1 < x.refs) :
    exec (.transmitComplete p) s =
      .next ((reportedEnd s n (loweredAt s p n x (endedUnit s p (idleEgress (s.port p).egress)))).select p) := by
  rw [exec_transmitComplete hheld ht, finishTransmission_settled, endTransmission_more hx h1]
  rw [endTransmission_more hx h1, (reportedEnd_eq s n (loweredAt s p n x _) rfl).1]
  exact .inl (by
    rw [show ∀ d : Device, ({ loweredAt s p n x (endedUnit s p (idleEgress (s.port p).egress)) with device := d } : State).slot n
      = some { x with refs := x.refs - 1 } from fun _ => lookup_put_self _ _ _]
    exact Option.some_ne_none _)

/-- The part in which the order of R107 is open: the slot is free, a candidate waits, and a choice has been taken. -/
def openEnd (s : State) (p : Port) (n : Nat) (x : Slot) : State :=
  { reportedEnd s n (freedAt s p n x (endedUnit s p (idleEgress (s.port p).egress))) with choices := s.choices + 1 }

theorem openEnd_eq (s : State) (p : Port) (n : Nat) (x : Slot) :
    openEnd s p n x =
      { freedAt s p n x (endedUnit s p (idleEgress (s.port p).egress)) with
        device := (openEnd s p n x).device
        choices := s.choices + 1 } :=
  congrArg (fun v : State => ({ v with choices := s.choices + 1 } : State)) (reportedEnd_eq s n (freedAt s p n x _) rfl).1

theorem complete_open (hheld : s.device.resetHeld = false) (ht : (s.port p).egress.transmitter = some n)
    (hok : SlotsOk s) (hx : s.slot n = some x) (h1 : x.refs = 1) (hsome : anyCandidate s = true) :
    exec (.transmitComplete p) s =
      .next (if Config.noticeFirst s.choices then (openEnd s p n x).takeService.select p else (openEnd s p n x).select p) := by
  have hended := endTransmission_last (p := p) hx h1
  have heq := (reportedEnd_eq s n (freedAt s p n x (endedUnit s p (idleEgress (s.port p).egress))) rfl).1
  rw [exec_transmitComplete hheld ht]
  unfold State.finishTransmission
  dsimp only
  have hchoices : (s.endTransmission p n).choices = s.choices := by
    rw [hended, heq]
    rfl
  have hopen : (s.endTransmission p n).slot n = none ∧ anyCandidate (s.endTransmission p n) = true := by
    rw [hended, heq]
    exact ⟨lookup_remove_self hok.1, (anyCandidate_congr rfl rfl).trans hsome⟩
  rw [if_pos hopen, hchoices, hended]
  rfl

/-- The freed slot is the one that the notice takes. -/
theorem takeService_first_ended (hok : SlotsOk s) (hx : s.slot n = some x) (hfull : s.lowestFreeSlot = none)
    (heligible : eligible s q = true) (hurgent : ∀ j, sourceRank j < sourceRank q → eligible s j = false)
    (hdue : ∀ j, (s.source j).resendDue = false) (hport : s.notices.port = p) (hp : s.inService p = true)
    (h3 : (s.port p).egress.q3 = []) {d : Device} {c : Nat}
    (hv : v = { freedAt s p n x (endedUnit s p (idleEgress (s.port p).egress)) with device := d, choices := c }) :
    NoticeSent s v.takeService p q n := by
  have hended : EndedAt s v p := by
    rw [hv]
    exact (EndedAt.freed s p n x).withDevice d c
  have hfree : v.lowestFreeSlot = some n := by
    rw [hv]
    exact lowestFree_remove hok.1 hfull (Nat.zero_le n) (by rw [Nat.zero_add]; exact keysBelow_lookup hok.2 hx)
  have hsources : v.notices.sources = s.notices.sources ∧ v.notices.target = s.notices.target ∧
      v.notices.port = s.notices.port ∧ v.notices.offerDue = true ∧ v.store.clock = s.store.clock := by
    rw [hv]
    exact ⟨rfl, rfl, rfl, rfl, rfl⟩
  obtain ⟨hsources, htarget, htargetPort, hoffer, hclock⟩ := hsources
  have hegress : (v.port p).egress = idleEgress (s.port p).egress := congrArg PortUnit.egress hended.port
  obtain ⟨hsent, hrecord, hslot⟩ := takeService_first (s := v) (q := q) hoffer hfree
    ((eligible_congr htarget hsources q).trans heligible)
    (fun j hj => (eligible_congr htarget hsources j).trans (hurgent j hj))
    (fun j => by unfold State.source; rw [hsources]; exact hdue j) (htargetPort.trans hport)
    (hended.inService.trans hp) (by rw [hegress]; rfl) (by rw [hegress]; exact h3)
  refine ⟨hsent.trans ?_, hrecord, by rw [← hclock]; exact hslot⟩
  rw [hegress]
  rfl

/-- Settles O33: the release, the report and the selection in each case, and both orders of R107. -/
theorem transmissionCompletes : Obligations.TransmissionCompletes := by
  unfold Obligations.TransmissionCompletes
  intro s p n x hheld hp ht hx
  refine ⟨fun h1 hnone => complete_last hheld ht hx h1 hnone, fun h1 => complete_more hheld ht hx h1,
    fun h1 hmark hnone => ⟨fun h3 h2 h1' h0 _ => ?_, fun m rest hlimit h3 => ?_⟩, fun h1 hmark m rest hlimit h3 => ?_,
    fun h1 hmark hnone m rest hlimit h3 => ?_, fun hok h1 hsome => ⟨?_, fun q m rest hfull heligible hurgent hdue hport hlimit h3
      hround h2 hshare => ?_⟩⟩
  · rw [complete_last hheld ht hx h1 hnone, reportedEnd_unmarked hmark,
      (EndedAt.freed s p n x).select_nothing h3 h2 h1' h0]
    rfl
  · rw [complete_last hheld ht hx h1 hnone, reportedEnd_unmarked hmark,
      (EndedAt.freed s p n x).select_three hp hlimit h3, freedAt_setPort]
    rfl
  · rw [complete_more hheld ht hx h1, reportedEnd_unmarked hmark,
      (EndedAt.lowered s p n x).select_three hp hlimit h3, loweredAt_setPort]
    rfl
  · rw [complete_last hheld ht hx h1 hnone, reportedEnd_marked hmark]
    refine congrArg Host.Outcome.next ((((EndedAt.freed s p n x).withDevice _ s.choices).select_three hp hlimit h3).trans ?_)
    exact congrArg (fun v : State => ({ v with
      device := { s.device with restartMark := none, restartDue := true } } : State)) (freedAt_setPort s p n x _ _)
  · refine ⟨(openEnd s p n x).takeService, exec_noticeService ?_, complete_open hheld ht hok hx h1 hsome⟩
    exact (reportedEnd_eq s n (freedAt s p n x _) rfl).2.trans hheld
  · refine ⟨_, complete_open hheld ht hok hx h1 hsome, fun hfirst => ?_, fun hlater => ?_⟩
    · have hsent := takeService_first_ended hok hx hfull heligible hurgent hdue hport hp h3 (openEnd_eq s p n x)
      rw [if_pos hfirst, select_sending (m := n) (by rw [hsent.egress])]
      exact ⟨hsent.egress, hsent.record, hsent.slot⟩
    · rw [if_neg (by rw [hlater]; exact Bool.false_ne_true), openEnd_eq,
        ((EndedAt.freed s p n x).withDevice _ _).select_two hp hlimit h3 hround h2 hshare]
      exact ⟨congrArg PortUnit.egress (State.port_setPort_self _ _ _), lookup_remove_self hok.1, rfl⟩

end Sys2Proof.Machine
end

section
/-! SUPPORT. What a classification leaves as it was (2.1 to 2.7), operation by operation; and the statement that says it of every
CLASSIFICATION. -/

namespace Sys2Proof.Safety

open Sys2Proof.Machine

variable {s t u : State} {p q : Port} {n : Nat} {f : Frame} {a : Word}

/-! ## The frame as a relation -/

theorem ClassificationFrame.refl (p : Port) (s : State) : ClassificationFrame p s s where
  working := rfl
  generation := rfl
  copying := rfl
  headers := ⟨rfl, rfl⟩
  standby := rfl
  ruleRecords := fun _ => rfl
  pinned := fun _ _ _ => Iff.rfl
  ageLimit := rfl
  threshold := rfl
  clocks := ⟨rfl, rfl⟩
  configurations := fun _ => ⟨rfl, rfl, rfl, rfl, rfl, rfl⟩
  timeout := rfl
  units := fun _ => .refl _
  settings := fun _ => .refl _
  address := rfl
  cache := rfl
  claim := rfl
  restartCount := rfl
  noticeUnit := ⟨rfl, rfl, rfl, rfl, rfl, rfl, rfl⟩
  records := fun _ => ⟨rfl, rfl, rfl, rfl⟩
  device := ⟨rfl, rfl, rfl⟩
  clock := rfl
  otherAwaiting := fun _ _ => rfl
  choices := rfl
  pending := rfl

theorem standby_of_working {r w : RuleList} (h : w.working = r.working) : w.standby = r.standby := by
  unfold RuleList.standby
  rw [h]

theorem ClassificationFrame.trans (h : ClassificationFrame p s t) (g : ClassificationFrame p t u) : ClassificationFrame p s u where
  working := g.working.trans h.working
  generation := g.generation.trans h.generation
  copying := g.copying.trans h.copying
  headers := ⟨g.headers.1.trans h.headers.1, g.headers.2.trans h.headers.2⟩
  standby := by
    rw [← h.standby, ← standby_of_working h.working]
    exact g.standby
  ruleRecords := fun k => by
    rw [← h.ruleRecords k, ← h.working]
    exact g.ruleRecords k
  pinned := fun b e he => (g.pinned b e he).trans (h.pinned b e he)
  ageLimit := g.ageLimit.trans h.ageLimit
  threshold := g.threshold.trans h.threshold
  clocks := ⟨g.clocks.1.trans h.clocks.1, g.clocks.2.trans h.clocks.2⟩
  configurations := fun k => by
    obtain ⟨h1, h2, h3, h4, h5, h6⟩ := h.configurations k
    obtain ⟨g1, g2, g3, g4, g5, g6⟩ := g.configurations k
    exact ⟨g1.trans h1, g2.trans h2, g3.trans h3, g4.trans h4, g5.trans h5, g6.trans h6⟩
  timeout := g.timeout.trans h.timeout
  units := fun q => (h.units q).trans (g.units q)
  settings := fun q => (h.settings q).trans (g.settings q)
  address := g.address.trans h.address
  cache := g.cache.trans h.cache
  claim := g.claim.trans h.claim
  restartCount := g.restartCount.trans h.restartCount
  noticeUnit := by
    obtain ⟨h1, h2, h3, h4, h5, h6, h7⟩ := h.noticeUnit
    obtain ⟨g1, g2, g3, g4, g5, g6, g7⟩ := g.noticeUnit
    exact ⟨g1.trans h1, g2.trans h2, g3.trans h3, g4.trans h4, g5.trans h5, g6.trans h6, g7.trans h7⟩
  records := fun q => by
    obtain ⟨h1, h2, h3, h4⟩ := h.records q
    obtain ⟨g1, g2, g3, g4⟩ := g.records q
    exact ⟨g1.trans h1, g2.trans h2, g3.trans h3, g4.trans h4⟩
  device := by
    obtain ⟨h1, h2, h3⟩ := h.device
    obtain ⟨g1, g2, g3⟩ := g.device
    exact ⟨g1.trans h1, g2.trans h2, g3.trans h3⟩
  clock := g.clock.trans h.clock
  otherAwaiting := fun q hq => (g.otherAwaiting q hq).trans (h.otherAwaiting q hq)
  choices := g.choices.trans h.choices
  pending := g.pending.trans h.pending

/-! ## The operations -/

/-- A working egress of any port. -/
theorem ClassificationFrame.egress {l : List Nat} (h : EgressOnly q l s t) : ClassificationFrame p s t where
  working := by rw [h.rules]
  generation := by rw [h.rules]
  copying := by rw [h.rules]
  headers := by rw [h.rules]; exact ⟨rfl, rfl⟩
  standby := by rw [h.rules]
  ruleRecords := fun _ => by rw [h.rules]
  pinned := fun _ _ _ => by unfold State.station; rw [h.stations]
  ageLimit := by rw [h.stations]
  threshold := by rw [h.stations]
  clocks := by rw [h.stations]; exact ⟨rfl, rfl⟩
  configurations := fun _ => by unfold State.meter; rw [h.meters]; exact ⟨rfl, rfl, rfl, rfl, rfl, rfl⟩
  timeout := by rw [h.sync]
  units := fun r => by
    by_cases hr : r = q
    · rw [hr]
      exact h.unit
    · rw [h.others r hr]
      exact .refl _
  settings := fun r => by
    by_cases hr : r = q
    · rw [hr]
      exact h.settings
    · rw [h.others r hr]
      exact .refl _
  address := by rw [h.agent]
  cache := by rw [h.agent]
  claim := by rw [h.agent]
  restartCount := by rw [h.agent]
  noticeUnit := by rw [h.notices]; exact ⟨rfl, rfl, rfl, rfl, rfl, rfl, rfl⟩
  records := fun _ => by unfold State.source; rw [h.notices]; exact ⟨rfl, rfl, rfl, rfl⟩
  device := by rw [h.device]; exact ⟨rfl, rfl, rfl⟩
  clock := h.clock
  otherAwaiting := fun _ _ => by rw [h.awaiting]
  choices := h.choices
  pending := h.pending

theorem ClassificationFrame.awaiting (p : Port) (s : State) (l : List Nat) : ClassificationFrame p s (s.setAwaiting p l) :=
  { ClassificationFrame.refl p s with otherAwaiting := fun _ hq => PerPort.get_set_other _ hq _ }

theorem ClassificationFrame.raise (p : Port) (s : State) (r : Source) (d : Word) : ClassificationFrame p s (s.raise r d) :=
  { ClassificationFrame.refl p s with
    records := fun q => by
      by_cases hq : q = r
      · rw [hq, State.source_raise_self]
        exact ⟨rfl, rfl, rfl, rfl⟩
      · rw [State.source_raise_other _ hq]
        exact ⟨rfl, rfl, rfl, rfl⟩ }

theorem ClassificationFrame.rewriteSlot (p : Port) (s : State) (n : Nat) (f : Frame) :
    ClassificationFrame p s (s.rewriteSlot n f) := by
  rcases rewriteSlot_cases s n f with ⟨-, h⟩ | ⟨x, -, h⟩ <;> rw [h]
  · exact .refl p s
  · exact { ClassificationFrame.refl p s with }

/-- A new or moved entry takes no PINNED entry's place. -/
theorem ClassificationFrame.writeLearned (hnot : ∀ e, s.station a = some e → e.kind ≠ .pinned) :
    ClassificationFrame p s (s.writeLearned a q) :=
  { ClassificationFrame.refl p s with
    pinned := fun b e he => by
      by_cases hb : b = a
      · rw [hb, station_writeLearned_self]
        exact ⟨fun h => (by cases h; cases he), fun h => absurd he (hnot e h)⟩
      · rw [station_writeLearned_other s q hb] }

theorem ClassificationFrame.countMove (p : Port) (s : State) (a : Word) : ClassificationFrame p s (s.countMove a) := by
  have hcounted : ∀ b, ClassificationFrame p s
      { countedMove s with stations := { (countedMove s).stations with storm := b } } := fun b =>
    { ClassificationFrame.refl p s with }
  by_cases h : s.stations.threshold ≤ satNext 255 s.stations.moveCount ∧ s.stations.storm = false
  · rw [countMove_storm h]
    exact (hcounted true).trans (.raise p _ _ _)
  · rw [countMove_calm h]
    exact hcounted s.stations.storm

theorem ClassificationFrame.learn (p : Port) (s : State) (a : Word) (q : Port) :
    ClassificationFrame p s (s.learn a q).2 := by
  cases hentry : s.station a with
  | none =>
    have hnot : ∀ e, s.station a = some e → e.kind ≠ .pinned := fun e he => nomatch hentry.symm.trans he
    by_cases hroom : s.stations.entries.length < Config.stationCapacity
    · rw [learn_new hentry hroom]
      exact .writeLearned hnot
    · rw [learn_full hentry (Nat.not_lt.mp hroom)]
      exact .raise p s _ a
  | some e =>
    obtain ⟨r, kind⟩ := e
    cases kind with
    | pinned =>
      by_cases hr : r = q
      · rw [hr] at hentry
        rw [learn_pinned hentry]
        exact .refl p s
      · rw [learn_guard hr hentry]
        exact .refl p s
    | learned age =>
      have hnot : ∀ e, s.station a = some e → e.kind ≠ .pinned := fun e he => by
        cases hentry.symm.trans he
        exact nofun
      by_cases hr : r = q
      · rw [hr] at hentry
        rw [learn_known hentry]
        exact .writeLearned hnot
      · rw [learn_moved hr hentry]
        exact (ClassificationFrame.writeLearned hnot).trans (.countMove p _ a)

/-! ## Meters and rules -/

/-- What a SET_METER configures of a meter. -/
def meterPlan (m : Meter) : MeterMode × Nat × Nat × Nat × ExceedAction × Bool :=
  (m.mode, m.ceiling, m.refill, m.period, m.exceed, m.trigger)

theorem configurations_of_plan (h : ∀ k, meterPlan (t.meter k) = meterPlan (s.meter k)) (k : Nat) :
    (t.meter k).mode = (s.meter k).mode ∧ (t.meter k).ceiling = (s.meter k).ceiling ∧
      (t.meter k).refill = (s.meter k).refill ∧ (t.meter k).period = (s.meter k).period ∧
      (t.meter k).exceed = (s.meter k).exceed ∧ (t.meter k).trigger = (s.meter k).trigger := by
  simpa only [meterPlan, Prod.mk.injEq] using h k

theorem meterPlan_map {g : Meter → Meter} (hg : ∀ m, meterPlan (g m) = meterPlan m) (l : List Meter) (k : Nat) :
    meterPlan ((l.map g).getD k .zero) = meterPlan (l.getD k .zero) := by
  simp only [List.getD_eq_getElem?_getD, List.getElem?_map]
  cases l[k]? with
  | none => rfl
  | some m => exact hg m

theorem meterPlan_set {m : Meter} {l : List Meter} {j : Nat} (hm : meterPlan m = meterPlan (l.getD j .zero)) (k : Nat) :
    meterPlan ((l.set j m).getD k .zero) = meterPlan (l.getD k .zero) := by
  by_cases hk : k = j
  · subst hk
    by_cases hlt : k < l.length
    · simp only [List.getD_eq_getElem?_getD, List.getElem?_set_self hlt]
      exact hm.trans (by rw [List.getD_eq_getElem?_getD])
    · rw [List.set_eq_of_length_le (Nat.not_lt.mp hlt)]
  · simp only [List.getD_eq_getElem?_getD, List.getElem?_set_ne (Ne.symm hk)]

theorem meterPlan_onGate (isOpen : Bool) (m : Meter) : meterPlan (m.onGate isOpen) = meterPlan m := by
  unfold Meter.onGate
  split <;> rfl

theorem meterPlan_onSync (m : Meter) : meterPlan m.onSync = meterPlan m := by
  unfold Meter.onSync
  repeat' split
  all_goals rfl

theorem ClassificationFrame.trunkSync (p : Port) (s : State) : ClassificationFrame p s s.trunkSync := by
  have hplan : ∀ k, meterPlan (s.trunkSync.meter k) = meterPlan (s.meter k) := fun k => by
    refine (meterPlan_map meterPlan_onSync _ k).trans ?_
    unfold State.setGate
    split
    · rfl
    · exact meterPlan_map (meterPlan_onGate true) _ k
  have honly := (trunkSync_only s).1
  generalize s.trunkSync = t at *
  rw [honly] at hplan ⊢
  exact { ClassificationFrame.refl p s with configurations := configurations_of_plan hplan }

theorem ClassificationFrame.setMeter {k : Nat} {m : Meter} (p : Port) (hm : meterPlan m = meterPlan (s.meter k)) :
    ClassificationFrame p s (s.setMeter k m) :=
  { ClassificationFrame.refl p s with configurations := configurations_of_plan (fun j => meterPlan_set hm j) }

theorem ClassificationFrame.consult (p : Port) (s : State) (k cost : Nat) :
    ClassificationFrame p s (s.consult k cost).2 := by
  unfold State.consult
  dsimp only
  split
  · exact .refl p s
  · split
    · exact .setMeter p rfl
    · have hover : ClassificationFrame p s (s.setMeter k (s.meter k).overrun) := .setMeter p rfl
      dsimp only
      split
      · exact hover.trans (.raise p _ _ _)
      · exact hover

theorem lookup_hit_rule (k : Bank) (j m : Nat) :
    (lookup m (k.hit j).positions).map Position.rule = (lookup m k.positions).map Position.rule := by
  by_cases hm : m = j
  · subst hm
    cases hx : lookup m k.positions with
    | none =>
      unfold Bank.hit
      rw [hx]
      exact congrArg _ hx
    | some x => rw [lookup_hit_self hx]; rfl
  · rw [lookup_hit_other k hm]

theorem setBank_hit_headers (r : RuleList) (name : BankName) (j : Nat) :
    (r.setBank name ((r.bank name).hit j)).bankA.header = r.bankA.header ∧
      (r.setBank name ((r.bank name).hit j)).bankB.header = r.bankB.header := by
  cases name
  · exact ⟨hit_header _ j, rfl⟩
  · exact ⟨rfl, hit_header _ j⟩

theorem ClassificationFrame.countHit (p : Port) (d : Decision) (s : State) : ClassificationFrame p s (countHit d s) := by
  cases hd : d.position with
  | none =>
    rw [countHit_of_no_position hd]
    exact .refl p s
  | some j =>
    rw [countHit_of_position hd]
    have hbank := RuleList.bank_setBank_self s.rules s.rules.working ((s.rules.bank s.rules.working).hit j)
    have hother : (s.rules.setBank s.rules.working ((s.rules.bank s.rules.working).hit j)).bank s.rules.standby =
        s.rules.bank s.rules.standby := RuleList.bank_setBank_other _ _ _
    have hheaders := setBank_hit_headers s.rules s.rules.working j
    have hfields := setBank_fields s.rules s.rules.working ((s.rules.bank s.rules.working).hit j)
    generalize s.rules.setBank s.rules.working _ = r at *
    have hworking : r.working = s.rules.working := by rw [hfields]
    have hgeneration : r.generation = s.rules.generation := by rw [hfields]
    have hcopying : r.copying = s.rules.copying := by rw [hfields]
    exact
      { ClassificationFrame.refl p s with
        working := hworking
        generation := hgeneration
        copying := hcopying
        headers := hheaders
        standby := hother
        ruleRecords := fun k => by
          dsimp only
          rw [hbank]
          exact lookup_hit_rule _ j k }

/-! ## The Agent, whose claim and restart count no classification touches -/

/-- `t` with the claim and the restart count of `s`. -/
def withClaimOf (s t : State) : State :=
  { t with agent := { t.agent with claim := s.agent.claim, restartCount := s.agent.restartCount } }

theorem ClassificationFrame.withClaimOf (h : ClassificationFrame p t u) (s : State) :
    ClassificationFrame p (withClaimOf s t) (withClaimOf s u) :=
  { h with claim := rfl, restartCount := rfl }

/-- `t` has what `ClassificationFrame` lists as `s` has it, but for the claim and the restart count. -/
def FrameButClaim (p : Port) (s t : State) : Prop := ClassificationFrame p s (Safety.withClaimOf s t)

theorem FrameButClaim.then (h : FrameButClaim p s t) (g : ClassificationFrame p t u) : FrameButClaim p s u :=
  ClassificationFrame.trans h (g.withClaimOf s)

theorem FrameButClaim.agent {b : Agent} (h : FrameButClaim p s t) (hcache : b.cache = t.agent.cache)
    (haddress : b.address = t.agent.address) : FrameButClaim p s { t with agent := b } :=
  { h with address := haddress.trans h.address, cache := hcache.trans h.cache }

theorem takeRequest_kept (s : State) :
    s.takeRequest.agent.cache = s.agent.cache ∧ s.takeRequest.agent.address = s.agent.address ∧
      s.takeRequest.agent.claim = s.agent.claim ∧ s.takeRequest.agent.restartCount = s.agent.restartCount := by
  unfold State.takeRequest
  repeat' split
  all_goals exact ⟨rfl, rfl, rfl, rfl⟩

theorem addRef_eq_slots (s : State) (n : Nat) : s.addRef n = s.setSlots (s.addRef n).store.slots := by
  unfold State.addRef
  split <;> rfl

theorem ClassificationFrame.addRef (p : Port) (s : State) (n : Nat) : ClassificationFrame p s (s.addRef n) := by
  rw [addRef_eq_slots]
  exact { ClassificationFrame.refl p s with }

theorem FrameButClaim.classifier (p : Port) (s : State) (n : Nat) : KeptByClassifier n (FrameButClaim p s) where
  place := fun t q c _ h => h.then (.egress (place_only t q c n))
  own := fun t q f h => h.then (.egress (placeOwn_only t q f))
  count := fun t q c h => h.then (.egress (count_only t q c))
  agent := fun _ _ _ _ hcache haddress h => h.agent hcache haddress
  capture := fun t source id q _ _ _ h => by
    have hqueued : FrameButClaim p s
        { t with agent := { t.agent with queue := t.agent.queue ++ [⟨source, id, q, n⟩] } } := h.agent rfl rfl
    have hheld := hqueued.then (.addRef p _ n)
    unfold State.capture
    rw [takeRequest_only]
    exact hheld.agent (takeRequest_kept _).1 (takeRequest_kept _).2.1
  rewrite := fun t f h => h.then (.rewriteSlot p t n f)
  raise := fun t r d h => h.then (.raise p t r d)
  trunkSync := fun t _ h => h.then (.trunkSync p t)
  learn := fun t a q h => h.then (.learn p t a q)
  countHit := fun t d h => h.then (.countHit p d t)
  consult := fun t k c h => h.then (.consult p t k c)

/-! ## Steps 5 to 13 leave the Agent alone -/

theorem placeAll_agent (c : BitVec 2) (n : Nat) (l : List Port) (s : State) : (State.placeAll c n l s).agent = s.agent := by
  induction l generalizing s with
  | nil => rfl
  | cons q rest ih => exact (ih _).trans (place_only s q c n).agent

theorem rewriteSlot_agent (s : State) (n : Nat) (f : Frame) : (s.rewriteSlot n f).agent = s.agent := by
  rcases rewriteSlot_cases s n f with ⟨-, h⟩ | ⟨x, -, h⟩ <;> rw [h]
  rfl

theorem charge_agent (s : State) (p : Port) (c : Option Counter) : (s.charge p c).agent = s.agent := by
  cases c <;> rfl

theorem consult_agent (s : State) (k cost : Nat) : (s.consult k cost).2.agent = s.agent := by rw [consult_only]

theorem meterStep_agent (s : State) (p : Port) (b : Action) (ports : List Port) (f : Frame) :
    (meterStep s p b ports f).state.agent = s.agent := by
  unfold meterStep
  dsimp only
  split
  · split <;> exact consult_agent s _ _
  · rfl

theorem noticeStep_agent (s : State) (d : Decision) : (noticeStep s d).agent = s.agent := by
  unfold noticeStep
  repeat' split
  all_goals rfl

theorem forwardEvaluated_agent (s : State) (p : Port) (n : Nat) (f : Frame) :
    (s.forwardEvaluated p n f).agent = s.agent := by
  unfold State.forwardEvaluated
  dsimp only
  have hlast : ∀ (v : State) (o : Option Port), v.agent = s.agent →
      (match o with
        | none => v
        | some q => v.place q 0 n).agent = s.agent := fun v o hv => by
    cases o with
    | none => exact hv
    | some q => exact (place_only v q 0 n).agent.trans hv
  apply hlast
  rw [placeAll_agent, rewriteSlot_agent, noticeStep_agent, meterStep_agent, charge_agent, countHit_only]

theorem forward_agent (s : State) (p : Port) (n : Nat) (f : Frame) : (s.forward p n f).agent = s.agent := by
  unfold State.forward State.forwardSync
  dsimp only
  split
  · rfl
  split
  · rfl
  split
  · split
    · rfl
    · rw [placeAll_agent, rewriteSlot_agent]
  · exact forwardEvaluated_agent s p n f

/-! ## The claim and the restart count -/

/-- The edit claim and the restart count are as they were. -/
def SameClaim (s t : State) : Prop := t.agent.claim = s.agent.claim ∧ t.agent.restartCount = s.agent.restartCount

theorem SameClaim.of_agent (h : t.agent = s.agent) : SameClaim s t := by
  unfold SameClaim
  rw [h]
  exact ⟨rfl, rfl⟩

theorem offerKeyed_claim (s : State) (p : Port) (n : Nat) (f : Frame) : SameClaim s (s.offerKeyed p n f) := by
  unfold State.offerKeyed State.resend State.capture
  dsimp only
  split
  · rw [countReplyLost_eq]
    unfold SameClaim
    rw [(placeOwn_only s p _).agent]
    exact ⟨rfl, rfl⟩
  · split
    · exact ⟨rfl, rfl⟩
    · split
      · exact ⟨rfl, rfl⟩
      · obtain ⟨-, -, hclaim, hcount⟩ := takeRequest_kept
          (({ s with agent := { s.agent with queue := s.agent.queue ++ [⟨f.src, requestId f.payload, p, n⟩] } } : State).addRef n)
        rw [addRef_eq_slots] at hclaim hcount ⊢
        exact ⟨hclaim, hcount⟩

theorem manageStep_claim (s : State) (p : Port) (n : Nat) (f : Frame) : SameClaim s (s.manageStep p n f) := by
  unfold State.manageStep State.offerDirect State.offerBroadcast
  split
  · split
    · split
      · split
        · exact ⟨rfl, rfl⟩
        · exact offerKeyed_claim s p n f
      · exact ⟨rfl, rfl⟩
    · exact ⟨rfl, rfl⟩
  · split
    · unfold SameClaim
      rw [forward_agent]
      split
      · exact offerKeyed_claim s p n f
      · exact ⟨rfl, rfl⟩
    · exact .of_agent (forward_agent s p n f)

theorem learn_agent (s : State) (a : Word) (p : Port) : (s.learn a p).2.agent = s.agent := by rw [learn_only]

theorem syncStep_agent (s : State) (p : Port) (f : Frame) : (s.syncStep p f).agent = s.agent := by
  unfold State.syncStep
  split
  · rw [(trunkSync_only s).1]
  · rfl

theorem classify_claim (s : State) (p : Port) (n : Nat) (f : Frame) : SameClaim s (s.classify p n f) := by
  unfold State.classify
  split
  · exact ⟨rfl, rfl⟩
  split
  · exact ⟨rfl, rfl⟩
  split
  · exact ⟨rfl, rfl⟩
  split
  · exact ⟨rfl, rfl⟩
  have hagent : ((s.syncStep p f).learn f.src p).2.agent = s.agent := (learn_agent _ _ _).trans (syncStep_agent s p f)
  dsimp only
  split
  · exact .of_agent hagent
  · have hmanaged := manageStep_claim ((s.syncStep p f).learn f.src p).2 p n f
    unfold SameClaim at hmanaged ⊢
    rw [hagent] at hmanaged
    exact hmanaged

theorem ClassificationFrame.classify (p : Port) (s : State) (n : Nat) (f : Frame) :
    ClassificationFrame p s (s.classify p n f) := by
  have hframe : FrameButClaim p s (s.classify p n f) :=
    (FrameButClaim.classifier p s n).classify (s := s) (ClassificationFrame.refl p s)
  obtain ⟨hclaim, hcount⟩ := classify_claim s p n f
  exact { hframe with claim := hclaim, restartCount := hcount }

/-- Settles O30: the frame leaves the waiting line, is classified, and its reference is released. -/
theorem classificationFrameHolds : Obligations.ClassificationFrameHolds := by
  unfold Obligations.ClassificationFrameHolds
  refine fun p s => ⟨_, rfl, ?_⟩
  split
  · split
    · exact .refl p s
    · next n rest _ =>
      split
      · exact .awaiting p s rest
      · next x _ =>
        exact ((ClassificationFrame.awaiting p s rest).trans (.classify p _ n x.frame)).trans (.egress (releaseRef_only _ p n))
  · exact .refl p s

end Sys2Proof.Safety
end

section
/-! SUPPORT. The way of a frame through a CLASSIFICATION (2.1, 2.2): one law for each step that ends it or lets it go on; and the
statement on the frames that steps 0 to 6 discard. -/

namespace Sys2Proof.Machine

open Sys2Proof.Safety

variable {s u v : State} {p q : Port} {n : Nat} {rest : List Nat} {x : Slot} {f : Frame} {a : Word} {c : Counter}

/-! ## The event (R28, R30) -/

theorem exec_classification (hheld : s.device.resetHeld = false) (hold : s.store.awaiting.get p = n :: rest)
    (hx : s.slot n = some x) :
    exec (.classification p) s = .next (((s.setAwaiting p rest).classify p n x.frame).releaseRef n) := by
  refine congrArg Host.Outcome.next ((if_pos hheld).trans ?_)
  rw [hold]
  dsimp only
  rw [hx]

/-- The classification's reference is the slot's last: the slot is free, the held count one lower, an offer due (R93, R96). -/
theorem release_alone (hx : v.slot n = some x) (h1 : x.refs = 1) (horigin : x.origin = .port p) :
    v.releaseRef n =
      { v with
        store := { v.store with slots := remove n v.store.slots, held := v.store.held.set p (v.store.held.get p - 1) }
        notices := { v.notices with offerDue := true } } := by
  rw [releaseRef_last hx (Nat.le_of_eq h1), horigin]
  rfl

/-- A frame that is counted and goes no further. -/
theorem release_counted (hx : u.slot n = some x) (h1 : x.refs = 1) (horigin : x.origin = .port p) (c : Counter) :
    ((u.setAwaiting p rest).count p c).releaseRef n = (discarded u p n rest).count p c := by
  exact release_alone (v := (u.setAwaiting p rest).count p c) hx h1 horigin

/-! ## Steps 0 to 3 -/

theorem classify_notRunning (h : s.device.state ≠ .running) :
    s.classify p n f = { s with agent := { s.agent with startupDiscards := s.agent.startupDiscards + 1 } } := if_pos h

theorem classify_outOfService (hrun : s.device.state = .running) (hp : s.inService p = false) :
    s.classify p n f = s.count p .rxListen := (if_neg (fun h => h hrun)).trans (if_pos hp)

theorem classify_own (hrun : s.device.state = .running) (hp : s.inService p = true) (hown : f.src = s.agent.address) :
    s.classify p n f = s.count p .rxOwn :=
  (if_neg (fun h => h hrun)).trans ((if_neg (fun h => Bool.false_ne_true (h.symm.trans hp))).trans (if_pos hown))

/-- The frame passes steps 0 to 2 of port `p`. -/
structure PassesEntry (s : State) (p : Port) (f : Frame) : Prop where
  running : s.device.state = .running
  inService : s.inService p = true
  foreign : f.src ≠ s.agent.address
  placed : f.kind = .sync → p = .t

theorem classify_misplaced (hrun : s.device.state = .running) (hp : s.inService p = true) (hown : f.src ≠ s.agent.address)
    (hsync : f.kind = .sync) (hbranch : p ≠ .t) : s.classify p n f = s.count p .rxSyncMisplaced :=
  (if_neg (fun h => h hrun)).trans ((if_neg (fun h => Bool.false_ne_true (h.symm.trans hp))).trans
    ((if_neg hown).trans (if_pos ⟨hsync, hbranch⟩)))

theorem classify_entered (h : PassesEntry s p f) :
    s.classify p n f =
      match ((s.syncStep p f).learn f.src p).1 with
      | .guard => ((s.syncStep p f).learn f.src p).2.count p .rxGuard
      | .goOn => ((s.syncStep p f).learn f.src p).2.manageStep p n f :=
  (if_neg (fun hr => hr h.running)).trans ((if_neg (fun hp => Bool.false_ne_true (hp.symm.trans h.inService))).trans
    ((if_neg h.foreign).trans (if_neg (fun hs => hs.2 (h.placed hs.1)))))

theorem classify_guard (h : PassesEntry s p f) (hguard : ((s.syncStep p f).learn f.src p).1 = .guard) :
    s.classify p n f = ((s.syncStep p f).learn f.src p).2.count p .rxGuard := by
  refine (classify_entered h).trans ?_
  rw [hguard]

theorem classify_goOn (h : PassesEntry s p f) (hgoOn : ((s.syncStep p f).learn f.src p).1 = .goOn) :
    s.classify p n f = ((s.syncStep p f).learn f.src p).2.manageStep p n f := by
  refine (classify_entered h).trans ?_
  rw [hgoOn]

/-- No trunk sync event but for a SYNC frame on an ACTIVE T (R32). -/
theorem syncStep_still (h : f.kind = .sync → p = .t → s.isActive .t = false) : s.syncStep p f = s :=
  if_neg (fun hs => Bool.false_ne_true ((h hs.1 hs.2.1).symm.trans hs.2.2))

theorem learn_setAwaiting (s : State) (a : Word) (p q : Port) (l : List Nat) :
    (s.setAwaiting q l).learn a p = ((s.learn a p).1, (s.learn a p).2.setAwaiting q l) := by
  cases hentry : s.station a with
  | none =>
    by_cases hroom : s.stations.entries.length < Config.stationCapacity
    · rw [learn_new hentry hroom, learn_new (s := s.setAwaiting q l) hentry hroom]
      rfl
    · rw [learn_full hentry (Nat.not_lt.mp hroom), learn_full (s := s.setAwaiting q l) hentry (Nat.not_lt.mp hroom)]
      rfl
  | some e =>
    obtain ⟨r, kind⟩ := e
    by_cases hr : r = p
    · subst hr
      cases kind with
      | pinned => rw [learn_pinned hentry, learn_pinned (s := s.setAwaiting q l) hentry]
      | learned age =>
        rw [learn_known hentry, learn_known (s := s.setAwaiting q l) hentry]
        rfl
    · cases kind with
      | pinned => rw [learn_guard hr hentry, learn_guard (s := s.setAwaiting q l) hr hentry]
      | learned age =>
        rw [learn_moved hr hentry, learn_moved (s := s.setAwaiting q l) hr hentry]
        unfold State.countMove
        dsimp only
        by_cases hstorm : (s.writeLearned a p).stations.threshold ≤ satNext 255 (s.writeLearned a p).stations.moveCount ∧
          (s.writeLearned a p).stations.storm = false
        · rw [if_pos hstorm]
          exact congrArg (Prod.mk Learnt.goOn) (if_pos hstorm)
        · rw [if_neg hstorm]
          exact congrArg (Prod.mk Learnt.goOn) (if_neg hstorm)

theorem learn_goOn (h : ∀ q, q ≠ p → s.station a ≠ some ⟨q, .pinned⟩) : (s.learn a p).1 = .goOn := by
  cases hentry : s.station a with
  | none =>
    by_cases hroom : s.stations.entries.length < Config.stationCapacity
    · rw [learn_new hentry hroom]
    · rw [learn_full hentry (Nat.not_lt.mp hroom)]
  | some e =>
    obtain ⟨r, kind⟩ := e
    by_cases hr : r = p
    · subst hr
      cases kind with
      | pinned => rw [learn_pinned hentry]
      | learned age => rw [learn_known hentry]
    · cases kind with
      | pinned => exact absurd hentry (h r hr)
      | learned age => rw [learn_moved hr hentry]

/-- Beside the table and the sources, learning leaves the part as it was. -/
theorem learn_keeps (s : State) (a : Word) (p : Port) :
    (s.learn a p).2.store = s.store ∧ (s.learn a p).2.ports = s.ports ∧ (s.learn a p).2.agent = s.agent ∧
      (s.learn a p).2.sync = s.sync ∧ (s.learn a p).2.meters = s.meters ∧ (s.learn a p).2.rules = s.rules ∧
      (s.learn a p).2.device = s.device := by
  rw [learn_only]
  exact ⟨rfl, rfl, rfl, rfl, rfl, rfl, rfl⟩

/-! ## Steps 4 to 6 -/

theorem manageStep_local (hdest : f.dest = s.agent.address) (hkind : f.kind ≠ .mgmt) :
    s.manageStep p n f = s.count p .rxLocal := (if_pos hdest).trans (if_neg hkind)

theorem manageStep_refused (hdest : f.dest = s.agent.address) (hkind : f.kind = .mgmt) (hallowed : (s.port p).allowed = false) :
    s.manageStep p n f = s.count p .rxMgmtRefused :=
  (if_pos hdest).trans ((if_pos hkind).trans (if_neg (fun h => Bool.false_ne_true (hallowed.symm.trans h))))

theorem manageStep_direct (hdest : f.dest = s.agent.address) (hkind : f.kind = .mgmt) (hallowed : (s.port p).allowed = true) :
    s.manageStep p n f = s.offerDirect p n f := (if_pos hdest).trans ((if_pos hkind).trans (if_pos hallowed))

theorem manageStep_broadcast (hdest : f.dest ≠ s.agent.address) (hkind : f.kind = .mgmt) (hall : f.dest = Config.broadcast)
    (hallowed : (s.port p).allowed = true) : s.manageStep p n f = (s.offerBroadcast p n f).forward p n f :=
  (if_neg hdest).trans (if_pos ⟨hkind, hall, hallowed⟩)

theorem manageStep_through (hdest : f.dest ≠ s.agent.address)
    (hother : ¬ (f.kind = .mgmt ∧ f.dest = Config.broadcast ∧ (s.port p).allowed = true)) :
    s.manageStep p n f = s.forward p n f := (if_neg hdest).trans (if_neg hother)

theorem forward_listen (h : (s.port p).state = .listen) : s.forward p n f = s.count p .rxListen := if_pos h

theorem not_listen_of_active (h : (s.port p).state = .active) : ¬ (s.port p).state = .listen := by
  rw [h]
  exact nofun

theorem forward_expired (h : (s.port p).state = .active) (hhops : f.hops = 0) : s.forward p n f = s.count p .rxExpired :=
  (if_neg (not_listen_of_active h)).trans (if_pos hhops)

theorem forward_sync (h : (s.port p).state = .active) (hhops : f.hops ≠ 0) (hsync : f.kind = .sync) :
    s.forward p n f = s.forwardSync p n f :=
  (if_neg (not_listen_of_active h)).trans ((if_neg hhops).trans (if_pos hsync))

theorem forward_evaluated (h : (s.port p).state = .active) (hhops : f.hops ≠ 0) (hkind : f.kind ≠ .sync) :
    s.forward p n f = s.forwardEvaluated p n f :=
  (if_neg (not_listen_of_active h)).trans ((if_neg hhops).trans (if_neg hkind))

/-! ## A CLASSIFICATION up to step 3 -/

theorem classification_entered (h : AwaitsAlone s p n rest x) :
    exec (.classification p) s = .next (((s.setAwaiting p rest).classify p n x.frame).releaseRef n) :=
  exec_classification h.released h.oldest h.slot

/-- The frame awaits classification, passes steps 0 to 2 and is no trunk sync event. -/
structure Enters (s : State) (p : Port) (n : Nat) (rest : List Nat) (x : Slot) : Prop extends AwaitsAlone s p n rest x where
  passes : PassesEntry s p x.frame
  still : x.frame.kind = .sync → p = .t → s.isActive .t = false

theorem Enters.passes_waiting (h : Enters s p n rest x) : PassesEntry (s.setAwaiting p rest) p x.frame :=
  ⟨h.passes.running, h.passes.inService, h.passes.foreign, h.passes.placed⟩

theorem Enters.learnt (h : Enters s p n rest x) :
    ((s.setAwaiting p rest).syncStep p x.frame).learn x.frame.src p =
      ((s.learn x.frame.src p).1, (s.learn x.frame.src p).2.setAwaiting p rest) := by
  rw [syncStep_still (s := s.setAwaiting p rest) h.still, learn_setAwaiting]

theorem Enters.slot_learned (h : Enters s p n rest x) : (s.learn x.frame.src p).2.slot n = some x := by
  unfold State.slot
  rw [(learn_keeps s x.frame.src p).1]
  exact h.slot

/-- The frame passes step 3 and its further way is `manageStep` on the part that has learned. -/
theorem Enters.goOn (h : Enters s p n rest x) (hgoOn : (s.learn x.frame.src p).1 = .goOn) :
    exec (.classification p) s =
      .next ((((s.learn x.frame.src p).2.setAwaiting p rest).manageStep p n x.frame).releaseRef n) := by
  rw [classification_entered h.toAwaitsAlone, classify_goOn h.passes_waiting (by rw [h.learnt]; exact hgoOn), h.learnt]

theorem Enters.guard (h : Enters s p n rest x) (hguard : (s.learn x.frame.src p).1 = .guard) :
    exec (.classification p) s = .next ((discarded (s.learn x.frame.src p).2 p n rest).count p .rxGuard) := by
  rw [classification_entered h.toAwaitsAlone, classify_guard h.passes_waiting (by rw [h.learnt]; exact hguard), h.learnt,
    release_counted h.slot_learned h.alone h.arrival]

/-- The frame is counted at one of steps 4 to 6 and released. -/
theorem Enters.counted (h : Enters s p n rest x) (hgoOn : (s.learn x.frame.src p).1 = .goOn)
    (hstep : ((s.learn x.frame.src p).2.setAwaiting p rest).manageStep p n x.frame =
      ((s.learn x.frame.src p).2.setAwaiting p rest).count p c) :
    exec (.classification p) s = .next ((discarded (s.learn x.frame.src p).2 p n rest).count p c) := by
  rw [h.goOn hgoOn, hstep, release_counted h.slot_learned h.alone h.arrival]

/-! ## The frame that steps 4 to 6 let by -/

theorem Enters.local (h : Enters s p n rest x) (hgoOn : (s.learn x.frame.src p).1 = .goOn)
    (hdest : x.frame.dest = s.agent.address) (hkind : x.frame.kind ≠ .mgmt) :
    exec (.classification p) s = .next ((discarded (s.learn x.frame.src p).2 p n rest).count p .rxLocal) :=
  h.counted hgoOn (manageStep_local (by
    rw [show ((s.learn x.frame.src p).2.setAwaiting p rest).agent = s.agent from (learn_keeps s x.frame.src p).2.2.1]
    exact hdest) hkind)

/-- A frame for others goes on to step 5. -/
theorem manageStep_learned (hdest : x.frame.dest ≠ s.agent.address)
    (hother : ¬ (x.frame.kind = .mgmt ∧ x.frame.dest = Config.broadcast ∧ (s.port p).allowed = true)) :
    ((s.learn x.frame.src p).2.setAwaiting p rest).manageStep p n x.frame =
      ((s.learn x.frame.src p).2.setAwaiting p rest).forward p n x.frame := by
  obtain ⟨-, hports, hagent, -⟩ := learn_keeps s x.frame.src p
  refine manageStep_through ?_ ?_
  · rw [show ((s.learn x.frame.src p).2.setAwaiting p rest).agent = s.agent from hagent]
    exact hdest
  · rw [show ((s.learn x.frame.src p).2.setAwaiting p rest).port p = s.port p from congrArg (PerPort.get · p) hports]
    exact hother

theorem port_learned (s : State) (a : Word) (p q : Port) (l : List Nat) :
    ((s.learn a p).2.setAwaiting p l).port q = s.port q := congrArg (PerPort.get · q) (learn_keeps s a p).2.1

theorem Enters.listen (h : Enters s p n rest x) (hgoOn : (s.learn x.frame.src p).1 = .goOn)
    (hdest : x.frame.dest ≠ s.agent.address)
    (hother : ¬ (x.frame.kind = .mgmt ∧ x.frame.dest = Config.broadcast ∧ (s.port p).allowed = true))
    (hlisten : (s.port p).state = .listen) :
    exec (.classification p) s = .next ((discarded (s.learn x.frame.src p).2 p n rest).count p .rxListen) :=
  h.counted hgoOn ((manageStep_learned hdest hother).trans (forward_listen (by rw [port_learned]; exact hlisten)))

theorem Enters.expired (h : Enters s p n rest x) (hgoOn : (s.learn x.frame.src p).1 = .goOn)
    (hdest : x.frame.dest ≠ s.agent.address)
    (hother : ¬ (x.frame.kind = .mgmt ∧ x.frame.dest = Config.broadcast ∧ (s.port p).allowed = true))
    (hactive : (s.port p).state = .active) (hhops : x.frame.hops = 0) :
    exec (.classification p) s = .next ((discarded (s.learn x.frame.src p).2 p n rest).count p .rxExpired) :=
  h.counted hgoOn ((manageStep_learned hdest hother).trans (forward_expired (by rw [port_learned]; exact hactive) hhops))

/-- A SYNC frame on T in LISTEN is counted and released, whatever its source and its destination. -/
theorem Enters.sync_listen (h : Enters s p n rest x) (hsync : x.frame.kind = .sync) (hlisten : (s.port p).state = .listen) :
    ∃ c, exec (.classification p) s = .next ((discarded (s.learn x.frame.src p).2 p n rest).count p c) := by
  have hkind : x.frame.kind ≠ .mgmt := by
    rw [hsync]
    exact nofun
  cases hlearn : (s.learn x.frame.src p).1 with
  | guard => exact ⟨_, h.guard hlearn⟩
  | goOn =>
    by_cases hdest : x.frame.dest = s.agent.address
    · exact ⟨_, h.local hlearn hdest hkind⟩
    · exact ⟨_, h.listen hlearn hdest (fun hm => hkind hm.1) hlisten⟩

theorem not_active_of_listen (h : (s.port p).state = .listen) : s.isActive p = false := by
  unfold State.isActive
  rw [h]
  rfl

/-- Settles O21, discard by discard. -/
theorem discardedWithOneCounter : Obligations.DiscardedWithOneCounter := by
  unfold Obligations.DiscardedWithOneCounter
  intro p s n rest x h
  refine ⟨fun hrun => ?_, fun hrun => ⟨fun hp => ?_, fun hp => ⟨fun hown => ?_, fun hown hsync hbranch => ?_,
    fun hown htrunk hsync hlisten => ?_, fun hown hstill => ?_⟩⟩⟩
  · rw [classification_entered h, classify_notRunning (by exact hrun)]
    exact congrArg Host.Outcome.next (release_alone (v := { s.setAwaiting p rest with agent := _ }) h.slot h.alone h.arrival)
  · rw [classification_entered h, classify_outOfService (by exact hrun) (by exact hp), release_counted h.slot h.alone h.arrival]
  · rw [classification_entered h, classify_own (by exact hrun) (by exact hp) (by exact hown),
      release_counted h.slot h.alone h.arrival]
  · rw [classification_entered h, classify_misplaced (by exact hrun) (by exact hp) (by exact hown) hsync hbranch,
      release_counted h.slot h.alone h.arrival]
  · subst htrunk
    have henters : Enters s .t n rest x :=
      { h with passes := ⟨hrun, hp, hown, fun _ => rfl⟩, still := fun _ _ => not_active_of_listen hlisten }
    obtain ⟨c, hexec⟩ := henters.sync_listen hsync hlisten
    obtain ⟨-, -, -, hlock, hmeters, -⟩ := learn_keeps s x.frame.src .t
    exact ⟨_, hexec, hlock, hmeters⟩
  · have henters : Enters s p n rest x :=
      { h with
        passes := ⟨hrun, hp, hown, fun hsync => (hstill hsync).1⟩
        still := fun hsync _ => not_active_of_listen (hstill hsync).2 }
    refine ⟨fun q hq hpinned => ?_, fun hpinned => ⟨fun hdest hkind => ?_, fun hdest hall => ⟨fun hlisten => ?_,
      fun hactive hhops => ?_⟩⟩⟩
    · have hguard := learn_guard hq hpinned
      rw [henters.guard (by rw [hguard]), hguard]
    · exact henters.local (learn_goOn hpinned) hdest hkind
    · exact henters.listen (learn_goOn hpinned) hdest (fun hm => hall hm.1 hm.2.1) hlisten
    · exact henters.expired (learn_goOn hpinned) hdest (fun hm => hall hm.1 hm.2.1) hactive hhops

end Sys2Proof.Machine
end

section
/-! SUPPORT. The placement of one slot at several ports (2.7, R50): what it makes of each port and of the slot, and that it
leaves the rest of the part. -/

namespace Sys2Proof.Machine

open Sys2Proof.Safety

variable {s t u : State} {p q : Port} {c : BitVec 2} {n : Nat} {x : Slot} {l m : List Port}

/-- The port takes placements: it is in service, its round and shares are in form, and it is settled. -/
structure Takes (s : State) (q : Port) : Prop where
  inService : s.inService q = true
  form : EgressOk (s.port q).egress
  settled : settledAt s q

theorem Takes.of_port (h : Takes s q) (e : t.port q = s.port q) : Takes t q where
  inService := by
    rw [inService_eq_unit, e]
    exact h.inService
  form := by
    rw [e]
    exact h.form
  settled := by
    unfold settledAt
    rw [e]
    exact h.settled

theorem Takes.of_active (h : IdleIsEmpty s) (ha : s.isActive q = true) : Takes s q :=
  ⟨inService_of_isActive ha, (h q).1, (h q).2⟩

/-- How many of these placements leave a reference. -/
def standing (s : State) (c : BitVec 2) (x : Slot) (l : List Port) : Nat :=
  l.countP (fun q => placedStands (s.port q) c (staleNow s q x))

/-- From `s` to `t` one reference to slot `n`, which held `x`, has been placed in class queue `c` of each port of `l`. -/
structure PlacedAt (s t : State) (c : BitVec 2) (n : Nat) (x : Slot) (l : List Port) : Prop where
  targets : ∀ q ∈ l, t.port q = placedUnit (s.port q) c n (staleNow s q x)
  others : ∀ q, q ∉ l → t.port q = s.port q
  slot : t.slot n = some { x with refs := x.refs + standing s c x l }
  slots : ∀ k, k ≠ n → t.slot k = s.slot k
  rules : t.rules = s.rules
  stations : t.stations = s.stations
  meters : t.meters = s.meters
  sync : t.sync = s.sync
  agent : t.agent = s.agent
  sources : t.notices.sources = s.notices.sources
  clock : t.store.clock = s.store.clock

theorem PlacedAt.nil (hx : s.slot n = some x) : PlacedAt s s c n x [] where
  targets := fun _ h => nomatch h
  others := fun _ _ => rfl
  slot := hx
  slots := fun _ _ => rfl
  rules := rfl
  stations := rfl
  meters := rfl
  sync := rfl
  agent := rfl
  sources := rfl
  clock := rfl

/-- Age against the residency limit of a port is read from that port and the clock. -/
theorem staleNow_congr (hport : t.port q = s.port q) (hclock : t.store.clock = s.store.clock) {y : Slot}
    (hy : y.accepted = x.accepted) : staleNow t q y = staleNow s q x := by
  unfold staleNow
  rw [hport, hclock, hy]

theorem PlacedAt.append (h : PlacedAt s t c n x l)
    (g : PlacedAt t u c n { x with refs := x.refs + standing s c x l } m) (hdisjoint : ∀ q ∈ m, q ∉ l) :
    PlacedAt s u c n x (l ++ m) := by
  have hstale : ∀ q ∈ m, staleNow t q { x with refs := x.refs + standing s c x l } = staleNow s q x := fun q hq =>
    staleNow_congr (h.others q (hdisjoint q hq)) h.clock rfl
  have hstanding : standing t c { x with refs := x.refs + standing s c x l } m = standing s c x m := by
    refine List.countP_congr (fun q hq => ?_)
    rw [hstale q hq, h.others q (hdisjoint q hq)]
  refine ⟨fun q hq => ?_, fun q hq => ?_, ?_, fun k hk => (g.slots k hk).trans (h.slots k hk), g.rules.trans h.rules,
    g.stations.trans h.stations, g.meters.trans h.meters, g.sync.trans h.sync, g.agent.trans h.agent,
    g.sources.trans h.sources, g.clock.trans h.clock⟩
  · by_cases hm : q ∈ m
    · rw [g.targets q hm, hstale q hm, h.others q (hdisjoint q hm)]
    · rw [g.others q hm]
      exact h.targets q ((List.mem_append.mp hq).resolve_right hm)
  · obtain ⟨hl, hm⟩ := not_or.mp (fun hor => hq (List.mem_append.mpr hor))
    rw [g.others q hm, h.others q hl]
  · rw [g.slot, hstanding]
    unfold standing
    rw [List.countP_append, Nat.add_assoc]

theorem place_placedAt (h : Takes s q) (hx : s.slot n = some x) (h1 : 1 ≤ x.refs) :
    PlacedAt s (s.place q c n) c n x [q] := by
  obtain ⟨hport, hslot, hslots⟩ := place_settled (c := c) h.inService (.inr h.form) h.settled hx h1
  have honly := place_only s q c n
  refine ⟨fun r hr => ?_, fun r hr => honly.others r (fun he => hr (he ▸ List.mem_singleton_self r)), ?_, hslots,
    honly.rules, honly.stations, honly.meters, honly.sync, honly.agent, ?_, honly.clock⟩
  · cases List.mem_singleton.mp hr
    exact hport
  · rw [hslot]
    unfold standing
    rw [List.countP_singleton]
  · rw [honly.notices]

theorem placeAll_placedAt (hl : ∀ q ∈ l, Takes s q) (hnodup : l.Nodup) (hx : s.slot n = some x) (h1 : 1 ≤ x.refs) :
    PlacedAt s (State.placeAll c n l s) c n x l := by
  induction l generalizing s x with
  | nil => exact .nil hx
  | cons q rest ih =>
    obtain ⟨hq, hrest⟩ := List.nodup_cons.mp hnodup
    have hfirst := place_placedAt (c := c) (hl q List.mem_cons_self) hx h1
    have hdisjoint : ∀ r ∈ rest, r ∉ [q] := fun r hr hmem => hq (List.mem_singleton.mp hmem ▸ hr)
    refine hfirst.append (ih (fun r hr => ?_) hrest hfirst.slot (Nat.le_add_right_of_le h1)) hdisjoint
    exact (hl r (List.mem_cons_of_mem _ hr)).of_port (hfirst.others r (hdisjoint r hr))

/-! ## The release at the end of a classification (R96) -/

/-- Slots are listed once each, in rising order, whatever a classification does to them. -/
theorem risingSlots_common : KeptInCommon (fun s => rising s.store.slots = true) where
  egress := fun _ _ _ h => h
  count := fun _ _ _ h => h
  report := fun s k h => by
    unfold State.reportEnd
    split <;> exact h
  release := fun s k h => by
    rcases releaseRef_cases s k with ⟨-, e⟩ | ⟨y, -, -, e⟩ | ⟨y, -, -, e⟩ <;> rw [e]
    · exact h
    · exact rising_remove h
    · exact rising_put h
  addRef := fun s k h => by
    unfold State.addRef
    split
    · exact h
    · exact rising_put h
  fill := fun _ _ _ _ h => rising_put h
  agent := fun _ _ h => h
  notices := fun _ _ h => h
  device := fun _ _ h => h
  choices := fun _ _ h => h
  rewrite := fun s k f h => by
    rcases rewriteSlot_cases s k f with ⟨-, e⟩ | ⟨y, -, e⟩ <;> rw [e]
    · exact h
    · exact rising_put h
  awaiting := fun _ _ _ h => h

/-- One reference less: the slot is free when it was the last. -/
theorem slot_releaseRef (hr : rising s.store.slots = true) (hx : s.slot n = some x) :
    (s.releaseRef n).slot n = (if x.refs - 1 = 0 then none else some { x with refs := x.refs - 1 }) ∧
      ∀ k, k ≠ n → (s.releaseRef n).slot k = s.slot k := by
  by_cases h1 : x.refs ≤ 1
  · rw [releaseRef_last hx h1, if_pos (Nat.sub_eq_zero_of_le h1)]
    exact ⟨lookup_remove_self hr, fun k hk => lookup_remove_other hk _⟩
  · rw [releaseRef_more hx (Nat.not_le.mp h1), if_neg (Nat.sub_ne_zero_of_lt (Nat.not_le.mp h1))]
    exact ⟨lookup_put_self _ _ _, fun k hk => lookup_put_other hk _ _⟩

end Sys2Proof.Machine
end

section
/-! SUPPORT. Steps 7 to 13 on a frame that is evaluated (2.3 to 2.7): the decision, the meter's answer and the content as
functions of the part that the frame finds (`decisionOn` to `portsOn`), what each step leaves, and the decision carried out. -/

namespace Sys2Proof.Machine

open Sys2Proof.Safety

variable {b s t w : State} {p q : Port} {n k cost : Nat} {x : Slot} {f : Frame} {a : Action} {d : Decision}

/-! ## What the steps decide (R40 to R48) -/

def decisionOn (b : State) (p : Port) (x : Slot) : Decision := evaluate p x.frame b

def targetsOn (b : State) (p : Port) (x : Slot) : Targets := verdictTargets b p x.frame.dest (decisionOn b p x).action

def meteredOn (b : State) (p : Port) (x : Slot) : Bool :=
  (decisionOn b p x).action.meterPresent && decide ((targetsOn b p x).ports ≠ [])

def answerOn (b : State) (p : Port) (x : Slot) : MeterDecision × State :=
  b.consult (decisionOn b p x).action.meter.toNat (frameCost x.frame)

def droppedOn (b : State) (p : Port) (x : Slot) : Bool := meteredOn b p x && decide ((answerOn b p x).1 = .exceeds .drop)

def demotedOn (b : State) (p : Port) (x : Slot) : Bool := meteredOn b p x && decide ((answerOn b p x).1 = .exceeds .demote)

def contentOn (b : State) (p : Port) (x : Slot) : Frame :=
  if demotedOn b p x then demote (rewrite (decisionOn b p x).action x.frame) else rewrite (decisionOn b p x).action x.frame

def portsOn (b : State) (p : Port) (x : Slot) : List Port := if droppedOn b p x then [] else (targetsOn b p x).ports

/-! ## A consultation reads the meters and writes meters and sources (R47, R74, R75) -/

theorem consult_off (h : (s.meter k).mode = .off) : s.consult k cost = (.notConsulted, s) := if_pos h

theorem consult_conforming (h : (s.meter k).mode ≠ .off) (hc : (s.meter k).conforms cost = true) :
    s.consult k cost = (.conforms, s.setMeter k ((s.meter k).charge cost)) := (if_neg h).trans (if_pos hc)

theorem consult_exceeding (h : (s.meter k).mode ≠ .off) (hc : ¬ (s.meter k).conforms cost = true) :
    s.consult k cost =
      (.exceeds (s.meter k).exceed,
        if (s.meter k).justSpent then (s.setMeter k (s.meter k).overrun).raise .meterSpent (BitVec.ofNat 16 k)
        else s.setMeter k (s.meter k).overrun) := (if_neg h).trans (if_neg hc)

theorem conforms_iff {m : Meter} : m.conforms cost = true ↔ cost ≤ m.credit ∧ (m.mode = .single → m.arm = .armed) := by
  unfold Meter.conforms
  rw [Bool.and_eq_true, Bool.or_eq_true, decide_eq_true_iff, decide_eq_true_iff, decide_eq_true_iff]
  exact and_congr_right (fun _ => ⟨fun h hs => h.resolve_left (fun hne => hne hs), fun h => by
    by_cases hs : m.mode = .single
    · exact .inr (h hs)
    · exact .inl hs⟩)

theorem consult_congr (hmeters : w.meters = b.meters) (hnotices : w.notices = b.notices) (k cost : Nat) :
    w.consult k cost =
      ((b.consult k cost).1,
        { w with meters := (b.consult k cost).2.meters, notices := (b.consult k cost).2.notices }) := by
  have hmeter : w.meter k = b.meter k := congrArg (fun m : MeterBank => m.meters.getD k .zero) hmeters
  by_cases hoff : (b.meter k).mode = .off
  · rw [consult_off hoff, consult_off (by rw [hmeter]; exact hoff), ← hmeters, ← hnotices]
  · have hoff' : (w.meter k).mode ≠ .off := by rw [hmeter]; exact hoff
    by_cases hconforms : (b.meter k).conforms cost = true
    · rw [consult_conforming hoff hconforms, consult_conforming hoff' (by rw [hmeter]; exact hconforms), hmeter]
      unfold State.setMeter
      rw [hmeters, ← hnotices]
    · rw [consult_exceeding hoff hconforms, consult_exceeding hoff' (by rw [hmeter]; exact hconforms), hmeter]
      unfold State.setMeter State.raise State.source
      rw [hmeters, ← hnotices]
      split <;> rfl

/-- A consultation touches no source but METER_SPENT. -/
theorem consult_source_other (b : State) (k cost : Nat) {r : Source} (hr : r ≠ .meterSpent) :
    (b.consult k cost).2.source r = b.source r := by
  by_cases hoff : (b.meter k).mode = .off
  · rw [consult_off hoff]
  · by_cases hconforms : (b.meter k).conforms cost = true
    · rw [consult_conforming hoff hconforms]
      rfl
    · rw [consult_exceeding hoff hconforms]
      dsimp only
      split
      · exact State.source_raise_other _ hr _
      · rfl

/-! ## Step 10 (R47) -/

/-- What the meter's answer makes of the sources and the meters when the frame is metered. -/
def meteredState (b : State) (metered : Bool) (answer : MeterDecision × State) : State := if metered then answer.2 else b

theorem meterStep_eq (hmeters : w.meters = b.meters) (hnotices : w.notices = b.notices) (p : Port) (a : Action)
    (ports : List Port) {f g : Frame} (hcost : frameCost g = frameCost f) :
    let metered := a.meterPresent && decide (ports ≠ [])
    let answer := b.consult a.meter.toNat (frameCost f)
    let dropped := metered && decide (answer.1 = .exceeds .drop)
    let demoted := metered && decide (answer.1 = .exceeds .demote)
    meterStep w p a ports g =
      ⟨{ (if dropped then w.count p .rxMeterDrop else w) with
          meters := (meteredState b metered answer).meters, notices := (meteredState b metered answer).notices },
        if dropped then [] else ports, if demoted then demote g else g⟩ := by
  intro metered answer dropped demoted
  cases hmetered : metered with
  | false =>
    have hnot : ¬ (a.meterPresent = true ∧ ports ≠ []) := fun ⟨h1, h2⟩ => by
      rw [show metered = (a.meterPresent && decide (ports ≠ [])) from rfl, h1, decide_eq_true h2] at hmetered
      exact nomatch hmetered
    rw [meterStep, if_neg hnot, show dropped = false from by simp [dropped, hmetered],
      show demoted = false from by simp [demoted, hmetered]]
    simp only [meteredState, Bool.false_eq_true, if_false]
    rw [← hmeters, ← hnotices]
  | true =>
    have hyes : a.meterPresent = true ∧ ports ≠ [] := by
      rw [Bool.and_eq_true, decide_eq_true_iff] at hmetered
      exact hmetered
    rw [meterStep, if_pos hyes, hcost, consult_congr hmeters hnotices,
      show dropped = decide (answer.1 = .exceeds .drop) from by simp [dropped, hmetered],
      show demoted = decide (answer.1 = .exceeds .demote) from by simp [demoted, hmetered]]
    show (match answer.1 with
      | .notConsulted => _
      | .conforms => _
      | .exceeds .drop => _
      | .exceeds .demote => _) = _
    cases answer.1 with
    | notConsulted => rfl
    | conforms => rfl
    | exceeds e => cases e <;> rfl

/-! ## Steps 7 to 12: the part before the placements -/

theorem isActive_congr (h : w.ports = b.ports) (q : Port) : w.isActive q = b.isActive q := by
  unfold State.isActive State.port
  rw [h]

theorem soleTarget_congr (h : ∀ q, w.isActive q = b.isActive q) (p q : Port) : soleTarget w p q = soleTarget b p q := by
  unfold soleTarget
  rw [h]

theorem floodTo_congr (h : ∀ q, w.isActive q = b.isActive q) (p : Port) : floodTo w p = floodTo b p := by
  unfold floodTo floodTargets
  rw [funext h]

/-- A target set is read from the Station Table and the ports' states. -/
theorem verdictTargets_congr (hstations : w.stations = b.stations) (h : ∀ q, w.isActive q = b.isActive q) (p : Port)
    (dest : Word) (a : Action) : verdictTargets w p dest a = verdictTargets b p dest a := by
  unfold verdictTargets resolve State.station
  simp only [hstations, soleTarget_congr h, floodTo_congr h]

/-- A counter charged to the arrival port, when there is one. -/
def chargedUnit (u : PortUnit) : Option Counter → PortUnit
  | none => u
  | some c => { u with counters := u.counters.bump c }

theorem charge_eq (s : State) (p : Port) (o : Option Counter) : s.charge p o = s.setPort p (chargedUnit (s.port p) o) := by
  cases o with
  | none => simp [State.charge, chargedUnit, State.setPort, State.port]
  | some c => rfl

/-- What an occurrence of RULE_HIT makes of its source (R49). -/
def hitSource (x : NoticeSource) (d : Decision) : NoticeSource :=
  match d.position with
  | none => x
  | some j =>
    if d.action.notice then
      { x with pending := true, occurrences := min 255 (x.occurrences + 1), detail := BitVec.ofNat 16 j }
    else x

theorem noticeStep_eq (s : State) (d : Decision) :
    noticeStep s d = { s with notices := (noticeStep s d).notices } ∧
      (noticeStep s d).source .ruleHit = hitSource (s.source .ruleHit) d ∧
      ∀ r, r ≠ .ruleHit → (noticeStep s d).source r = s.source r := by
  unfold noticeStep hitSource
  cases d.position with
  | none => exact ⟨rfl, rfl, fun _ _ => rfl⟩
  | some j =>
    cases d.action.notice with
    | false => exact ⟨rfl, rfl, fun _ _ => rfl⟩
    | true =>
      refine ⟨rfl, ?_, fun r hr => State.source_raise_other _ hr _⟩
      exact (State.source_raise_self s .ruleHit _).trans (occur_eq _ _)

theorem frameCost_rewrite (a : Action) (f : Frame) : frameCost (rewrite a f) = frameCost f := by
  unfold frameCost rewrite
  dsimp only
  split <;> rfl

/-- The part `t` stands after steps 7 to 12, the placements still to come. -/
structure Prepared (b t : State) (p : Port) (n : Nat) (x : Slot) : Prop where
  rules : t.rules = (countHit (decisionOn b p x) b).rules
  stations : t.stations = b.stations
  agent : t.agent = b.agent
  sync : t.sync = b.sync
  clock : t.store.clock = b.store.clock
  meters : t.meters = (meteredState b (meteredOn b p x) (answerOn b p x)).meters
  meterSpent : t.source .meterSpent = (meteredState b (meteredOn b p x) (answerOn b p x)).source .meterSpent
  ruleHit : t.source .ruleHit = hitSource (b.source .ruleHit) (decisionOn b p x)
  sources : ∀ r, r ≠ .meterSpent → r ≠ .ruleHit → t.source r = b.source r
  port : t.port p =
    if droppedOn b p x then chargedUnit (b.port p) (some .rxMeterDrop) else chargedUnit (b.port p) (targetsOn b p x).charge
  others : ∀ q, q ≠ p → t.port q = b.port q
  slot : t.slot n = some { x with frame := contentOn b p x }
  slots : ∀ m, m ≠ n → t.slot m = b.slot m

theorem meteredState_source (b : State) (m : Bool) (j cost : Nat) {r : Source} (hr : r ≠ .meterSpent) :
    (meteredState b m (b.consult j cost)).source r = b.source r := by
  unfold meteredState
  split
  · exact consult_source_other b j cost hr
  · rfl

/-- A frame that the meter drops had targets, so nothing was charged for an empty set. -/
theorem charge_none_of_dropped (h : droppedOn b p x = true) : (targetsOn b p x).charge = none := by
  unfold droppedOn meteredOn at h
  rw [Bool.and_eq_true, Bool.and_eq_true, decide_eq_true_iff] at h
  have hlaw := (lawful_verdictTargets b p x.frame.dest (decisionOn b p x).action).charge
  rw [← Option.not_isSome_iff_eq_none]
  exact fun hsome => h.1.2 (hlaw.mpr hsome)

/-- The copy's placement, when there is one. -/
def placeCopy (n : Nat) (s : State) : Option Port → State
  | none => s
  | some o => s.place o 0 n

/-- The part that step 10 finds: the deciding counter has counted, and an empty target set its counter. -/
def chargedState (b : State) (p : Port) (x : Slot) : State :=
  (countHit (decisionOn b p x) b).charge p (targetsOn b p x).charge

/-- The part after steps 7 to 12. -/
def preparedState (b : State) (p : Port) (n : Nat) (x : Slot) : State :=
  let d := decisionOn b p x
  let m := meterStep (chargedState b p x) p d.action (targetsOn b p x).ports (rewrite d.action x.frame)
  (noticeStep m.state d).rewriteSlot n (contentOn b p x)

theorem chargedState_eq (b : State) (p : Port) (x : Slot) :
    chargedState b p x =
      { b with
        rules := (countHit (decisionOn b p x) b).rules
        ports := b.ports.set p (chargedUnit (b.port p) (targetsOn b p x).charge) } := by
  unfold chargedState
  rw [charge_eq, countHit_only]
  rfl

theorem chargedState_active (b : State) (p : Port) (x : Slot) (q : Port) :
    (chargedState b p x).isActive q = b.isActive q := by
  rw [chargedState_eq]
  unfold State.isActive State.port
  dsimp only
  rw [PerPort.get_set]
  split
  next h =>
    rw [h]
    cases (targetsOn b p x).charge <;> rfl
  next => rfl

theorem meterStep_charged (b : State) (p : Port) (x : Slot) :
    meterStep (chargedState b p x) p (decisionOn b p x).action (targetsOn b p x).ports
        (rewrite (decisionOn b p x).action x.frame) =
      ⟨{ (if droppedOn b p x then (chargedState b p x).count p .rxMeterDrop else chargedState b p x) with
          meters := (meteredState b (meteredOn b p x) (answerOn b p x)).meters
          notices := (meteredState b (meteredOn b p x) (answerOn b p x)).notices },
        portsOn b p x, contentOn b p x⟩ := by
  refine meterStep_eq (b := b) ?_ ?_ p _ _ (frameCost_rewrite _ x.frame)
  · rw [chargedState_eq]
  · rw [chargedState_eq]

theorem copyTarget_congr (h : ∀ q, w.isActive q = b.isActive q) (p : Port) (d : Decision) (ports : List Port) :
    copyTarget w p d ports = copyTarget b p d ports := by
  unfold copyTarget
  simp only [h]

theorem forwardEvaluated_eq (b : State) (p : Port) (n : Nat) (x : Slot) :
    b.forwardEvaluated p n x.frame =
      placeCopy n (State.placeAll (contentOn b p x).cls n (portsOn b p x) (preparedState b p n x))
        (copyTarget b p (decisionOn b p x) (portsOn b p x)) := by
  have htargets : verdictTargets (countHit (decisionOn b p x) b) p x.frame.dest (decisionOn b p x).action = targetsOn b p x := by
    rw [countHit_only]
    exact verdictTargets_congr (b := b) rfl (fun _ => rfl) p _ _
  have hcopy := copyTarget_congr (w := (meterStep (chargedState b p x) p (decisionOn b p x).action (targetsOn b p x).ports
    (rewrite (decisionOn b p x).action x.frame)).state) (b := b) (fun q =>
      ((meterStep_ports _ p _ _ _).2.isActive q).trans (chargedState_active b p x q)) p (decisionOn b p x) (portsOn b p x)
  have hmeter := meterStep_charged b p x
  unfold State.forwardEvaluated preparedState
  dsimp only
  simp only [show evaluate p x.frame b = decisionOn b p x from rfl, htargets,
    show (countHit (decisionOn b p x) b).charge p (targetsOn b p x).charge = chargedState b p x from rfl]
  rw [hmeter] at hcopy ⊢
  rw [hcopy]
  cases copyTarget b p (decisionOn b p x) (portsOn b p x) <;> rfl

/-! ## What steps 7 to 12 leave -/

/-- The part that step 10 leaves. -/
def meteredPart (b : State) (p : Port) (x : Slot) : State :=
  { (if droppedOn b p x then (chargedState b p x).count p .rxMeterDrop else chargedState b p x) with
    meters := (meteredState b (meteredOn b p x) (answerOn b p x)).meters
    notices := (meteredState b (meteredOn b p x) (answerOn b p x)).notices }

theorem meteredPart_eq (b : State) (p : Port) (x : Slot) :
    meteredPart b p x =
      { b with
        rules := (countHit (decisionOn b p x) b).rules
        ports := b.ports.set p
          (if droppedOn b p x then chargedUnit (b.port p) (some .rxMeterDrop)
            else chargedUnit (b.port p) (targetsOn b p x).charge)
        meters := (meteredState b (meteredOn b p x) (answerOn b p x)).meters
        notices := (meteredState b (meteredOn b p x) (answerOn b p x)).notices } := by
  unfold meteredPart
  cases hdropped : droppedOn b p x with
  | false =>
    simp only [Bool.false_eq_true, if_false]
    rw [chargedState_eq]
  | true =>
    simp only [if_true]
    rw [chargedState_eq, charge_none_of_dropped hdropped]
    simp [chargedUnit, State.port, State.count, State.setPort]

/-- What the arrival port is left with. -/
def preparedUnit (b : State) (p : Port) (x : Slot) : PortUnit :=
  if droppedOn b p x then chargedUnit (b.port p) (some .rxMeterDrop) else chargedUnit (b.port p) (targetsOn b p x).charge

theorem preparedState_eq (hx : b.slot n = some x) :
    preparedState b p n x =
      { b with
        rules := (countHit (decisionOn b p x) b).rules
        ports := b.ports.set p (preparedUnit b p x)
        meters := (meteredState b (meteredOn b p x) (answerOn b p x)).meters
        notices := (noticeStep (meteredPart b p x) (decisionOn b p x)).notices
        store := { b.store with slots := put n { x with frame := contentOn b p x } b.store.slots } } := by
  have hnotices := (noticeStep_eq (meteredPart b p x) (decisionOn b p x)).1
  have hslot : (noticeStep (meteredPart b p x) (decisionOn b p x)).slot n = some x := by
    rw [hnotices, meteredPart_eq]
    exact hx
  unfold preparedState
  dsimp only
  rw [meterStep_charged]
  show State.rewriteSlot (noticeStep (meteredPart b p x) (decisionOn b p x)) n (contentOn b p x) = _
  unfold State.rewriteSlot
  rw [hslot]
  dsimp only
  generalize noticeStep (meteredPart b p x) (decisionOn b p x) = t at *
  rw [hnotices, meteredPart_eq]
  rfl

theorem prepared (hx : b.slot n = some x) : Prepared b (preparedState b p n x) p n x := by
  rw [preparedState_eq hx]
  obtain ⟨-, hhit, hothers⟩ := noticeStep_eq (meteredPart b p x) (decisionOn b p x)
  have hmetered : ∀ r, (meteredPart b p x).source r = (meteredState b (meteredOn b p x) (answerOn b p x)).source r :=
    fun _ => rfl
  have hother : ∀ r, r ≠ .meterSpent → (meteredPart b p x).source r = b.source r := fun r hr =>
    (hmetered r).trans (meteredState_source b _ _ _ hr)
  exact
    { rules := rfl
      stations := rfl
      agent := rfl
      sync := rfl
      clock := rfl
      meters := rfl
      meterSpent := (hothers .meterSpent nofun).trans (hmetered _)
      ruleHit := hhit.trans (congrArg (hitSource · _) (hother .ruleHit nofun))
      sources := fun r hspent hr => (hothers r hr).trans (hother r hspent)
      port := PerPort.get_set_self _ _ _
      others := fun q hq => PerPort.get_set_other _ hq _
      slot := lookup_put_self _ _ _
      slots := fun m hm => lookup_put_other hm _ _ }

end Sys2Proof.Machine
end

section
/-! SUPPORT. A decision carried out (2.3 to 2.7): the placements of the targets and of the copy, and the release, on the part
that steps 7 to 12 leave; and the statement on meters and decisions. -/

namespace Sys2Proof.Machine

open Sys2Proof.Safety

variable {b s t v w : State} {p q o : Port} {n : Nat} {x y : Slot} {rest : List Nat}

/-! ## The copy (R48) -/

/-- The observation port `q` takes a copy. -/
def copiesOn (b : State) (p : Port) (x : Slot) (q : Port) : Bool :=
  (decisionOn b p x).action.copy && decide ((decisionOn b p x).observation = some q) && b.isActive q && decide (q ≠ p) &&
    decide (q ∉ portsOn b p x)

theorem copiesOn_iff : copiesOn b p x q = true ↔ copyTarget b p (decisionOn b p x) (portsOn b p x) = some q := by
  rw [copyTarget_some]
  unfold copiesOn
  simp only [Bool.and_eq_true, decide_eq_true_iff, isActive_iff, and_assoc]

theorem copiesOn_none (h : copyTarget b p (decisionOn b p x) (portsOn b p x) = none) (q : Port) : copiesOn b p x q = false :=
  Bool.eq_false_iff.mpr (fun hq => nomatch h.symm.trans (copiesOn_iff.mp hq))

theorem copiesOn_some (h : copyTarget b p (decisionOn b p x) (portsOn b p x) = some o) (q : Port) :
    copiesOn b p x q = decide (q = o) := by
  by_cases hq : q = o
  · rw [hq, copiesOn_iff.mpr h]
    exact (decide_eq_true rfl).symm
  · rw [decide_eq_false hq]
    exact Bool.eq_false_iff.mpr (fun hc => hq (Option.some.inj ((copiesOn_iff.mp hc).symm.trans h)))

theorem countP_single (g : Port → Bool) (o : Port) :
    allPorts.countP (fun q => decide (q = o) && g q) = if g o then 1 else 0 := by
  cases o <;> simp [allPorts, List.countP_cons]

/-- How many references the copy leaves. -/
def copyStanding (b : State) (p : Port) (x : Slot) : Nat :=
  allPorts.countP (fun q => copiesOn b p x q && placedStands (b.port q) 0 (staleNow b q x))

/-! ## The placements -/

theorem portsOn_subset (b : State) (p : Port) (x : Slot) : ∀ q ∈ portsOn b p x, q ∈ (targetsOn b p x).ports := by
  intro q hq
  unfold portsOn at hq
  split at hq
  · exact nomatch hq
  · exact hq

theorem portsOn_nodup (b : State) (p : Port) (x : Slot) : (portsOn b p x).Nodup := by
  unfold portsOn
  split
  · exact List.nodup_nil
  · exact (lawful_verdictTargets b p x.frame.dest _).nodup

theorem portsOn_active (hq : q ∈ portsOn b p x) : b.isActive q = true ∧ q ≠ p := by
  have hmem := portsOn_subset b p x q hq
  refine ⟨verdictTargets_active _ _ _ _ q hmem, ?_⟩
  rintro rfl
  exact (lawful_verdictTargets b q x.frame.dest _).notArrival hmem

/-- The part `z` stands after all placements. -/
structure Forwarded (b z : State) (p : Port) (n : Nat) (x : Slot) : Prop where
  rules : z.rules = (countHit (decisionOn b p x) b).rules
  stations : z.stations = b.stations
  agent : z.agent = b.agent
  sync : z.sync = b.sync
  meters : z.meters = (meteredState b (meteredOn b p x) (answerOn b p x)).meters
  meterSpent : z.source .meterSpent = (meteredState b (meteredOn b p x) (answerOn b p x)).source .meterSpent
  ruleHit : z.source .ruleHit = hitSource (b.source .ruleHit) (decisionOn b p x)
  sources : ∀ r, r ≠ .meterSpent → r ≠ .ruleHit → z.source r = b.source r
  port : z.port p = preparedUnit b p x
  others : ∀ q, q ≠ p → z.port q =
    if q ∈ portsOn b p x then placedUnit (b.port q) (contentOn b p x).cls n (staleNow b q x)
    else if copiesOn b p x q then placedUnit (b.port q) 0 n (staleNow b q x)
    else b.port q
  slot : z.slot n = some
    { x with
      frame := contentOn b p x
      refs := x.refs + (standing b (contentOn b p x).cls x (portsOn b p x) + copyStanding b p x) }
  slots : ∀ m, m ≠ n → z.slot m = b.slot m

/-- Placements are read from the ports other than the arrival port, the clock and the acceptance time. -/
theorem standing_congr {c : BitVec 2} {l : List Port} (hl : ∀ q ∈ l, q ≠ p) (hports : ∀ q, q ≠ p → v.port q = b.port q)
    (hclock : v.store.clock = b.store.clock) (hy : y.accepted = x.accepted) : standing v c y l = standing b c x l := by
  refine List.countP_congr (fun q hq => ?_)
  rw [staleNow_congr (hports q (hl q hq)) hclock hy, hports q (hl q hq)]

theorem copyStanding_eq (b : State) (p : Port) (x : Slot) :
    copyStanding b p x = standing b 0 x (copyTarget b p (decisionOn b p x) (portsOn b p x)).toList := by
  unfold copyStanding
  cases hcopy : copyTarget b p (decisionOn b p x) (portsOn b p x) with
  | none =>
    refine List.countP_eq_zero.mpr (fun q _ => ?_)
    rw [copiesOn_none hcopy]
    exact Bool.false_ne_true
  | some o =>
    rw [funext (copiesOn_some hcopy), countP_single]
    exact (List.countP_singleton ..).symm

theorem placeCopy_placedAt {c : Option Port} (hc : ∀ o, c = some o → Takes w o) (hy : w.slot n = some y) (h1 : 1 ≤ y.refs) :
    PlacedAt w (placeCopy n w c) 0 n y c.toList := by
  cases c with
  | none => exact .nil hy
  | some o => exact place_placedAt (hc o rfl) hy h1

/-- The placements of targets and copy, each on the part that the one before it leaves. -/
theorem forwarded (hx : b.slot n = some x) (h1 : 1 ≤ x.refs) (hidle : IdleIsEmpty b) :
    Forwarded b (b.forwardEvaluated p n x.frame) p n x := by
  have hprepared := prepared (p := p) hx
  rw [forwardEvaluated_eq]
  generalize preparedState b p n x = v at *
  have htargets : PlacedAt v (State.placeAll (contentOn b p x).cls n (portsOn b p x) v) (contentOn b p x).cls n
      { x with frame := contentOn b p x } (portsOn b p x) := by
    refine placeAll_placedAt (fun q hq => ?_) (portsOn_nodup b p x) hprepared.slot h1
    obtain ⟨hactive, hne⟩ := portsOn_active hq
    exact (Takes.of_active hidle hactive).of_port (hprepared.others q hne)
  generalize State.placeAll (contentOn b p x).cls n (portsOn b p x) v = w at *
  have hw : ∀ q, q ∉ portsOn b p x → q ≠ p → w.port q = b.port q := fun q hq hne =>
    (htargets.others q hq).trans (hprepared.others q hne)
  have hcopied : ∀ o, copyTarget b p (decisionOn b p x) (portsOn b p x) = some o →
      o ≠ p ∧ o ∉ portsOn b p x ∧ w.port o = b.port o ∧ b.isActive o = true := fun o ho => by
    obtain ⟨-, -, hactive, hne, hnot⟩ := copyTarget_some.mp ho
    exact ⟨hne, hnot, hw o hnot hne, isActive_iff.mpr hactive⟩
  have hcopy := placeCopy_placedAt (fun o ho => (Takes.of_active hidle (hcopied o ho).2.2.2).of_port (hcopied o ho).2.2.1)
    htargets.slot (Nat.le_add_right_of_le h1)
  have hclock := htargets.clock.trans hprepared.clock
  have hstandingTargets : standing v (contentOn b p x).cls { x with frame := contentOn b p x } (portsOn b p x) =
      standing b (contentOn b p x).cls x (portsOn b p x) :=
    standing_congr (fun q hq => (portsOn_active hq).2) hprepared.others hprepared.clock rfl
  have hstandingCopy : ∀ y : Slot, y.accepted = x.accepted →
      standing w 0 y (copyTarget b p (decisionOn b p x) (portsOn b p x)).toList = copyStanding b p x := fun y hy => by
    rw [copyStanding_eq]
    refine List.countP_congr (fun o ho => ?_)
    have hport := (hcopied o (Option.mem_toList.mp ho)).2.2.1
    rw [staleNow_congr hport hclock hy, hport]
  have hsource : ∀ r, (placeCopy n w (copyTarget b p (decisionOn b p x) (portsOn b p x))).source r = v.source r := fun r => by
    unfold State.source
    rw [hcopy.sources, htargets.sources]
  exact
    { rules := hcopy.rules.trans (htargets.rules.trans hprepared.rules)
      stations := hcopy.stations.trans (htargets.stations.trans hprepared.stations)
      agent := hcopy.agent.trans (htargets.agent.trans hprepared.agent)
      sync := hcopy.sync.trans (htargets.sync.trans hprepared.sync)
      meters := hcopy.meters.trans (htargets.meters.trans hprepared.meters)
      meterSpent := (hsource _).trans hprepared.meterSpent
      ruleHit := (hsource _).trans hprepared.ruleHit
      sources := fun r hs hr => (hsource r).trans (hprepared.sources r hs hr)
      port := by
        rw [hcopy.others p (fun hmem => (hcopied p (Option.mem_toList.mp hmem)).1 rfl),
          htargets.others p (fun hmem => (portsOn_active hmem).2 rfl)]
        exact hprepared.port
      others := fun q hne => by
        by_cases hq : q ∈ portsOn b p x
        · rw [if_pos hq, hcopy.others q (fun hmem => (hcopied q (Option.mem_toList.mp hmem)).2.1 hq), htargets.targets q hq,
            hprepared.others q hne, staleNow_congr (hprepared.others q hne) hprepared.clock rfl]
          rfl
        · rw [if_neg hq]
          by_cases hc : copiesOn b p x q = true
          · have ho := copiesOn_iff.mp hc
            rw [if_pos hc, hcopy.targets q (Option.mem_toList.mpr ho), hw q hq hne,
              staleNow_congr (hcopied q ho).2.2.1 hclock rfl]
            rfl
          · rw [if_neg hc, hcopy.others q (fun hmem => hc (copiesOn_iff.mpr (Option.mem_toList.mp hmem))), hw q hq hne]
      slot := by
        refine hcopy.slot.trans ?_
        rw [hstandingCopy _ (by rfl), hstandingTargets]
        dsimp only
        rw [Nat.add_assoc]
      slots := fun m hm => (hcopy.slots m hm).trans ((htargets.slots m hm).trans (hprepared.slots m hm)) }

/-- The listing of slots stays in rising order through steps 7 to 13. -/
theorem rising_forwardEvaluated (hr : rising b.store.slots = true) (p : Port) (n : Nat) (x : Slot) (hx : b.slot n = some x) :
    rising (b.forwardEvaluated p n x.frame).store.slots = true := by
  rw [forwardEvaluated_eq]
  have hprepared : rising (preparedState b p n x).store.slots = true := by
    rw [preparedState_eq hx]
    exact rising_put hr
  have hplaced := risingSlots_common.placeAll (c := (contentOn b p x).cls) (n := n) (portsOn b p x) hprepared
  cases copyTarget b p (decisionOn b p x) (portsOn b p x) with
  | none => exact hplaced
  | some o => exact risingSlots_common.place hplaced

/-- A decision is carried out by steps 7 to 13 and the release. -/
theorem decision_carried (hx : b.slot n = some x) (h1 : 1 ≤ x.refs) (hidle : IdleIsEmpty b)
    (hr : rising b.store.slots = true) : DecisionCarriedOut b p n x ((b.forwardEvaluated p n x.frame).releaseRef n) := by
  have hforwarded := forwarded (p := p) hx h1 hidle
  have hrising := rising_forwardEvaluated hr p n x hx
  generalize b.forwardEvaluated p n x.frame = z at *
  have honly := releaseRef_only z p n
  obtain ⟨hslot, hslots⟩ := slot_releaseRef hrising hforwarded.slot
  have hport : ∀ q, (z.releaseRef n).port q = z.port q := fun q => congrArg (PerPort.get · q) (releaseRef_ports z n)
  have hsource : ∀ r, (z.releaseRef n).source r = z.source r := fun r => by
    unfold State.source
    rw [honly.notices]
  have hreferences : x.refs + (standing b (contentOn b p x).cls x (portsOn b p x) + copyStanding b p x) - 1 =
      standing b (contentOn b p x).cls x (portsOn b p x) + copyStanding b p x + (x.refs - 1) := by omega
  rw [hreferences] at hslot
  refine ⟨honly.rules.trans hforwarded.rules, honly.stations.trans hforwarded.stations, honly.agent.trans hforwarded.agent,
    honly.sync.trans hforwarded.sync, ?meters, ?spent, ?hit, fun r hs hh => (hsource r).trans (hforwarded.sources r hs hh),
    ?port, fun q hq => (hport q).trans (hforwarded.others q hq), hslot, fun m hm => (hslots m hm).trans (hforwarded.slots m hm)⟩
  case meters =>
    rw [honly.meters, hforwarded.meters]
    exact apply_ite State.meters _ _ _
  case spent =>
    rw [hsource, hforwarded.meterSpent]
    exact apply_ite (State.source · .meterSpent) _ _ _
  case hit =>
    rw [hsource, hforwarded.ruleHit]
    rfl
  case port =>
    rw [hport, hforwarded.port]
    unfold preparedUnit
    dsimp only
    show _ = (match (targetsOn b p x).charge with
      | some c => _
      | none => if droppedOn b p x then _ else _)
    cases hcharge : (targetsOn b p x).charge with
    | none => rfl
    | some c =>
      rw [if_neg (fun hdropped => nomatch (charge_none_of_dropped hdropped).symm.trans hcharge)]
      rfl

/-! ## The statement -/

theorem countHit_rules_setAwaiting (d : Decision) (b : State) (p : Port) (l : List Nat) :
    (countHit d (b.setAwaiting p l)).rules = (countHit d b).rules := by
  unfold countHit
  split <;> rfl

/-- Which frames await classification has no part in a decision. -/
theorem decisionCarriedOut_of_waiting {l : List Nat} (h : DecisionCarriedOut (b.setAwaiting p l) p n x t) :
    DecisionCarriedOut b p n x t := by
  unfold DecisionCarriedOut at h
  dsimp only at h
  rw [consult_congr (w := b.setAwaiting p l) (b := b) rfl rfl, countHit_rules_setAwaiting] at h
  exact h

theorem frameCost_table (f : Frame) (hlen : f.payload.length ≤ 64) :
    (f.payload.length ≤ 15 → frameCost f = 1) ∧
    (16 ≤ f.payload.length → f.payload.length ≤ 31 → frameCost f = 2) ∧
    (32 ≤ f.payload.length → f.payload.length ≤ 47 → frameCost f = 3) ∧
    (48 ≤ f.payload.length → f.payload.length ≤ 63 → frameCost f = 4) ∧
    (f.payload.length = 64 → frameCost f = 5) := by
  unfold frameCost
  omega

theorem overrun_other {m : Meter} (h : m.mode ≠ .single) : m.overrun = { m with exceeded := m.exceeded + 1 } := by
  unfold Meter.overrun
  rw [if_neg h]

theorem overrun_single {m : Meter} (h : m.mode = .single) : m.overrun = { m with exceeded := m.exceeded + 1, arm := .spent } := by
  unfold Meter.overrun
  rw [if_pos h]

theorem justSpent_iff {m : Meter} : m.justSpent = true ↔ m.mode = .single ∧ m.arm = .armed := by
  unfold Meter.justSpent
  rw [Bool.and_eq_true, decide_eq_true_iff, decide_eq_true_iff]

/-- An overrun that makes no meter SPENT is counted at the meter alone. -/
theorem consult_counted {k cost : Nat} (h : (s.meter k).mode ≠ .off) (hc : ¬ (s.meter k).conforms cost = true)
    (hspent : ¬ (s.meter k).justSpent = true) :
    s.consult k cost = (.exceeds (s.meter k).exceed, s.setMeter k (s.meter k).overrun) := by
  rw [consult_exceeding h hc, if_neg hspent]

theorem idle_learned (h : IdleIsEmpty s) (a : Word) (p : Port) (l : List Nat) :
    IdleIsEmpty ((s.learn a p).2.setAwaiting p l) := fun q => by
  rw [port_learned]
  exact h q

theorem rising_learned (h : SlotsOk s) (a : Word) (p : Port) (l : List Nat) :
    rising ((s.learn a p).2.setAwaiting p l).store.slots = true := by
  have hslots : (s.learn a p).2.store.slots = s.store.slots := by rw [(learn_keeps s a p).1]
  show rising (s.learn a p).2.store.slots = true
  rw [hslots]
  exact h.1

/-- A frame that no step ends is evaluated, and its decision carried out on the part that has learned. -/
theorem Enters.decided (h : Enters s p n rest x) (hidle : IdleIsEmpty s) (hok : SlotsOk s)
    (hgoOn : (s.learn x.frame.src p).1 = .goOn) (hdest : x.frame.dest ≠ s.agent.address)
    (hother : ¬ (x.frame.kind = .mgmt ∧ x.frame.dest = Config.broadcast ∧ (s.port p).allowed = true))
    (hactive : (s.port p).state = .active) (hhops : x.frame.hops ≠ 0) (hkind : x.frame.kind ≠ .sync) :
    ∃ t, exec (.classification p) s = .next t ∧ DecisionCarriedOut (s.learn x.frame.src p).2 p n x t := by
  refine ⟨_, h.goOn hgoOn, ?_⟩
  rw [manageStep_learned hdest hother, forward_evaluated (by rw [port_learned]; exact hactive) hhops hkind]
  exact decisionCarriedOut_of_waiting (decision_carried (b := (s.learn x.frame.src p).2.setAwaiting p rest) h.slot_learned
    (Nat.le_of_eq h.alone.symm) (idle_learned hidle _ p rest) (rising_learned hok _ p rest))

/-- Settles O26: the costs, the consultation, and the decision. -/
theorem decisionIsCarriedOut : Obligations.DecisionIsCarriedOut := by
  unfold Obligations.DecisionIsCarriedOut
  refine ⟨frameCost_table, fun s k cost => ⟨consult_off, fun hoff hcost harm => ?_, fun hoff hsingle hcost => ?_,
    fun hsingle hspent => ?_, fun hsingle harmed hcost => ?_⟩, fun p s n rest x h hidle hok hrun hactive hkind hsrc hdest hall
      hhops hpinned => ?_⟩
  · exact consult_conforming hoff (conforms_iff.mpr ⟨hcost, harm⟩)
  · rw [consult_counted hoff (fun hc => absurd (conforms_iff.mp hc).1 (Nat.not_le.mpr hcost))
      (fun hs => hsingle (justSpent_iff.mp hs).1), overrun_other hsingle]
  · have harm : (s.meter k).arm ≠ .armed := by
      rw [hspent]
      exact nofun
    rw [consult_counted (by rw [hsingle]; exact nofun) (fun hc => harm ((conforms_iff.mp hc).2 hsingle))
      (fun hs => harm (justSpent_iff.mp hs).2), overrun_single hsingle, ← hspent]
  · rw [consult_exceeding (by rw [hsingle]; exact nofun) (fun hc => absurd (conforms_iff.mp hc).1 (Nat.not_le.mpr hcost)),
      if_pos (justSpent_iff.mpr ⟨hsingle, harmed⟩), overrun_single hsingle]
  · have henters : Enters s p n rest x :=
      { h with
        passes := ⟨hrun, inService_of_isActive (isActive_iff.mpr hactive), hsrc, fun hs => absurd hs hkind⟩
        still := fun hs => absurd hs hkind }
    obtain ⟨t, hexec, hdecided⟩ := henters.decided hidle hok (learn_goOn hpinned) hdest (fun hm => hall hm.1 hm.2.1) hactive
      hhops hkind
    obtain ⟨-, -, hagent, hsync, -⟩ := learn_keeps s x.frame.src p
    have ⟨_, _, htagent, htsync, _⟩ := hdecided
    exact ⟨t, hexec, htagent.trans hagent, htsync.trans hsync, hdecided⟩

end Sys2Proof.Machine
end

section
/-! SUPPORT. A DATA frame between known stations under a default PASS: every step that could change more leaves the part as it
is; and the statement that gives the exact next state. -/

namespace Sys2Proof.Machine

open Sys2Proof.Safety

variable {b s : State} {p q : Port} {n m age : Nat} {x : Slot} {rest : List Nat} {e : StationEntry}

/-! ## A default PASS (R12, R41, R47 to R49) -/

theorem evaluate_default (hposition : (evaluate p x.frame s).position = none)
    (hpass : (s.rules.bank s.rules.working).header.verdict = .pass) :
    (evaluate p x.frame s).action = defaultAction .pass := by
  rcases evaluate_cases p x.frame s with ⟨k, a, -, he⟩ | ⟨-, he⟩
  · rw [he] at hposition
    cases hposition
  · rw [he, hpass]

/-- Nothing decides but the default PASS of the part `b`. -/
structure DefaultPass (b : State) (p : Port) (x : Slot) : Prop where
  position : (decisionOn b p x).position = none
  action : (decisionOn b p x).action = defaultAction .pass

theorem DefaultPass.unmetered (h : DefaultPass b p x) : meteredOn b p x = false := by
  unfold meteredOn
  rw [h.action]
  rfl

theorem DefaultPass.undropped (h : DefaultPass b p x) : droppedOn b p x = false := by
  unfold droppedOn
  rw [h.unmetered]
  rfl

theorem DefaultPass.content (h : DefaultPass b p x) :
    contentOn b p x = Frame.recheck { x.frame with hops := x.frame.hops - 1 } := by
  unfold contentOn demotedOn
  rw [h.unmetered, h.action]
  rfl

theorem DefaultPass.ports (h : DefaultPass b p x) : portsOn b p x = (targetsOn b p x).ports := by
  unfold portsOn
  rw [h.undropped]
  rfl

theorem DefaultPass.uncopied (h : DefaultPass b p x) : copyTarget b p (decisionOn b p x) (portsOn b p x) = none := by
  unfold copyTarget
  rw [h.action]
  rfl

theorem DefaultPass.prepared (h : DefaultPass b p x) (hcharge : (targetsOn b p x).charge = none) (hx : b.slot n = some x) :
    preparedState b p n x =
      b.setSlots (put n { x with frame := Frame.recheck { x.frame with hops := x.frame.hops - 1 } } b.store.slots) := by
  rw [preparedState_eq hx, h.content]
  have hrules : countHit (decisionOn b p x) b = b := countHit_of_no_position h.position b
  have hunit : preparedUnit b p x = b.port p := by
    unfold preparedUnit
    rw [h.undropped, hcharge]
    rfl
  have hpart : (meteredPart b p x).notices = b.notices := by
    unfold meteredPart meteredState
    rw [h.unmetered]
    rfl
  have hnotices : (noticeStep (meteredPart b p x) (decisionOn b p x)).notices = b.notices := by
    unfold noticeStep
    rw [h.position]
    exact hpart
  rw [hrules, hunit, hnotices]
  unfold meteredState
  rw [h.unmetered]
  unfold State.port
  rw [PerPort.set_get]
  rfl

/-- The frame goes to one port whose transmitter is busy: its reference joins the tail there, and the classification's own is
given up. -/
theorem DefaultPass.forwarded (h : DefaultPass b p x) (htargets : targetsOn b p x = ⟨[q], none⟩) (hx : b.slot n = some x)
    (h1 : x.refs = 1) (ht : (b.port q).egress.transmitter = some m)
    (hroom : ((b.port q).egress.queue x.frame.cls).length < 32) :
    (b.forwardEvaluated p n x.frame).releaseRef n =
      { b with
        store :=
          { b.store with
            slots := put n { x with frame := Frame.recheck { x.frame with hops := x.frame.hops - 1 } } b.store.slots }
        ports := b.ports.set q
          { b.port q with
            egress := (b.port q).egress.setQueue x.frame.cls ((b.port q).egress.queue x.frame.cls ++ [n]) } } := by
  rw [forwardEvaluated_eq, h.uncopied, h.ports, htargets, h.content, h.prepared (by rw [htargets]) hx]
  unfold placeCopy State.placeAll State.placeAll
  generalize hy : ({ x with frame := Frame.recheck { x.frame with hops := x.frame.hops - 1 } } : Slot) = y
  have hrefs : y.refs = 1 := by
    rw [← hy]
    exact h1
  have hclass : (Frame.recheck { x.frame with hops := x.frame.hops - 1 }).cls = x.frame.cls := rfl
  rw [hclass, place_room (s := b.setSlots (put n y b.store.slots)) hroom,
    enqueue_sending (s := b.setSlots (put n y b.store.slots)) (x := y) ht (lookup_put_self _ _ _)]
  refine (releaseRef_more (x := { y with refs := y.refs + 1 }) (by exact lookup_put_self _ _ _) (by
    show 1 < y.refs + 1
    rw [hrefs]
    exact Nat.lt_succ_self 1)).trans ?_
  unfold State.setSlots State.setEgress State.setPort
  dsimp only
  rw [put_put, put_put]
  rfl

/-- Settles O27. -/
theorem knownStationIsForwarded : Obligations.KnownStationIsForwarded := by
  unfold Obligations.KnownStationIsForwarded
  intro p q s n m age rest x e h hrun hactive hkind hhops hsrc hdest hstation hne hknown hentry hport hqp hq hposition hpass ht
    hroom
  have henters : Enters s p n rest x :=
    { h with
      passes := ⟨hrun, inService_of_isActive (isActive_iff.mpr hactive), hsrc, fun hs => nomatch hkind.symm.trans hs⟩
      still := fun hs => nomatch hkind.symm.trans hs }
  have hlearn := learn_known hknown
  have hother : ¬ (x.frame.kind = .mgmt ∧ x.frame.dest = Config.broadcast ∧ (s.port p).allowed = true) :=
    fun hm => nomatch hkind.symm.trans hm.1
  rw [henters.goOn (by rw [hlearn]), manageStep_learned hdest hother,
    forward_evaluated (by rw [port_learned]; exact hactive) hhops (by rw [hkind]; exact nofun), hlearn]
  have hdefault : DefaultPass ((s.writeLearned x.frame.src p).setAwaiting p rest) p x :=
    ⟨(congrArg Decision.position (evaluate_congr (s := s) rfl p x.frame)).trans hposition,
      (congrArg Decision.action (evaluate_congr (s := s) rfl p x.frame)).trans (evaluate_default hposition hpass)⟩
  have htargets : targetsOn ((s.writeLearned x.frame.src p).setAwaiting p rest) p x = ⟨[q], none⟩ := by
    unfold targetsOn
    rw [hdefault.action, verdictTargets_of_pass_without_limit rfl rfl,
      resolve_known (s := (s.writeLearned x.frame.src p).setAwaiting p rest) hstation (e := e) ((station_writeLearned_other s p hne).trans hentry), hport]
    exact soleTarget_other hqp hq
  rw [hdefault.forwarded htargets h.slot h.alone ht hroom]
  rfl

end Sys2Proof.Machine
end

section
/-! SUPPORT. A SYNC frame on an ACTIVE trunk (2.2, 4.3, 6.7): the trunk sync event, the frame's further way, and its flood to the
branches; and the statement that collects the outcomes. -/

namespace Sys2Proof.Machine

open Sys2Proof.Safety

variable {s t u : State} {p q : Port} {n : Nat} {x : Slot} {rest : List Nat} {f : Frame} {c : Counter}

/-! ## The trunk sync event (R79, R81, R131) -/

/-- A meter after the gate has opened and the triggers have been served. -/
def syncedMeter (gateOpen : Bool) (m : Meter) : Meter :=
  let opened := if gateOpen = false ∧ m.mode = .gated then { m with timer := some m.period } else m
  if m.trigger = true then
    match m.mode with
    | .off => opened
    | .single => { opened with credit := m.ceiling, arm := .armed }
    | .continuous => { opened with credit := min m.ceiling (m.credit + m.refill), timer := some m.period }
    | .gated => { opened with credit := min m.ceiling (m.credit + m.refill), timer := some m.period }
  else opened

theorem onSync_open (m : Meter) : m.onSync = syncedMeter true m := by
  obtain ⟨mode, _, _, _, _, trigger, _, _, _, _, _⟩ := m
  cases mode <;> cases trigger <;> rfl

theorem onSync_onGate (m : Meter) : (m.onGate true).onSync = syncedMeter false m := by
  obtain ⟨mode, _, _, _, _, trigger, _, _, _, _, _⟩ := m
  cases mode <;> cases trigger <;> rfl

theorem trunkSync_lock (s : State) :
    s.trunkSync.sync = ⟨true, s.sync.timeout, some s.sync.timeout⟩ ∧
      s.trunkSync.meters = ⟨s.meters.meters.map (syncedMeter s.meters.gateOpen), true⟩ := by
  refine ⟨by rw [(trunkSync_only s).1], ?_⟩
  unfold State.trunkSync State.setGate State.serveTriggers
  dsimp only
  cases hgate : s.meters.gateOpen with
  | true =>
    rw [if_pos rfl, funext onSync_open]
    dsimp only
    rw [hgate]
  | false =>
    rw [if_neg Bool.false_ne_true]
    dsimp only
    rw [List.map_map, ← funext onSync_onGate]
    rfl

theorem trunkSync_setAwaiting (s : State) (p : Port) (l : List Nat) :
    (s.setAwaiting p l).trunkSync = s.trunkSync.setAwaiting p l := by
  have hplain := (trunkSync_only s).1
  have hwaiting := (trunkSync_only (s.setAwaiting p l)).1
  rw [(trunkSync_lock s).2] at hplain
  rw [(trunkSync_lock (s.setAwaiting p l)).2] at hwaiting
  rw [hplain, hwaiting]
  rfl

/-! ## The lock and the meters after the event -/

/-- The lock and the meters are as they were. -/
def SameSync (s t : State) : Prop := t.sync = s.sync ∧ t.meters = s.meters

theorem SameSync.trans (h : SameSync s t) (g : SameSync t u) : SameSync s u := ⟨g.1.trans h.1, g.2.trans h.2⟩

theorem SameSync.egress {l : List Nat} (h : EgressOnly p l s t) : SameSync s t := ⟨h.sync, h.meters⟩

theorem SameSync.awaiting (s : State) (p : Port) (l : List Nat) : SameSync s (s.setAwaiting p l) := ⟨rfl, rfl⟩

theorem SameSync.placeAll (c : BitVec 2) (n : Nat) (l : List Port) (s : State) : SameSync s (State.placeAll c n l s) := by
  induction l generalizing s with
  | nil => exact ⟨rfl, rfl⟩
  | cons q rest ih => exact (SameSync.egress (place_only s q c n)).trans (ih _)

theorem SameSync.rewriteSlot (s : State) (n : Nat) (f : Frame) : SameSync s (s.rewriteSlot n f) := by
  rcases rewriteSlot_cases s n f with ⟨-, h⟩ | ⟨x, -, h⟩ <;> rw [h] <;> exact ⟨rfl, rfl⟩

theorem SameSync.forwardSync (s : State) (p : Port) (n : Nat) (f : Frame) : SameSync s (s.forwardSync p n f) := by
  unfold State.forwardSync
  dsimp only
  split
  · exact ⟨rfl, rfl⟩
  · exact (SameSync.rewriteSlot s n _).trans (.placeAll _ _ _ _)

/-- A SYNC frame past step 3 is counted or flooded. -/
theorem SameSync.manageStep (hsync : f.kind = .sync) (s : State) (p : Port) (n : Nat) : SameSync s (s.manageStep p n f) := by
  have hkind : f.kind ≠ .mgmt := by
    rw [hsync]
    exact nofun
  by_cases hdest : f.dest = s.agent.address
  · rw [manageStep_local hdest hkind]
    exact ⟨rfl, rfl⟩
  · rw [manageStep_through hdest (fun hm => hkind hm.1)]
    unfold State.forward
    split
    · exact ⟨rfl, rfl⟩
    split
    · exact ⟨rfl, rfl⟩
    exact .forwardSync s p n f

/-! ## The frame's way (2.2) -/

/-- A SYNC frame on an ACTIVE trunk, not from the part's own address. -/
structure LocksTrunk (s : State) (f : Frame) : Prop where
  running : s.device.state = .running
  active : (s.port .t).state = .active
  kind : f.kind = .sync
  foreign : f.src ≠ s.agent.address

theorem LocksTrunk.passes (h : LocksTrunk s f) (l : List Nat) : PassesEntry (s.setAwaiting .t l) .t f :=
  ⟨h.running, inService_of_isActive (isActive_iff.mpr h.active), h.foreign, fun _ => rfl⟩

theorem LocksTrunk.learnt (h : LocksTrunk s f) (l : List Nat) :
    ((s.setAwaiting .t l).syncStep .t f).learn f.src .t =
      ((s.trunkSync.learn f.src .t).1, (s.trunkSync.learn f.src .t).2.setAwaiting .t l) := by
  rw [← learn_setAwaiting, ← trunkSync_setAwaiting]
  exact congrArg (State.learn · f.src .t) (if_pos ⟨h.kind, rfl, isActive_iff.mpr h.active⟩)

theorem LocksTrunk.guard (h : LocksTrunk s f) (l : List Nat) (n : Nat) (hguard : (s.trunkSync.learn f.src .t).1 = .guard) :
    (s.setAwaiting .t l).classify .t n f = ((s.trunkSync.learn f.src .t).2.setAwaiting .t l).count .t .rxGuard := by
  rw [classify_guard (h.passes l) (by rw [h.learnt]; exact hguard), h.learnt]

theorem LocksTrunk.goOn (h : LocksTrunk s f) (l : List Nat) (n : Nat) (hgoOn : (s.trunkSync.learn f.src .t).1 = .goOn) :
    (s.setAwaiting .t l).classify .t n f = ((s.trunkSync.learn f.src .t).2.setAwaiting .t l).manageStep .t n f := by
  rw [classify_goOn (h.passes l) (by rw [h.learnt]; exact hgoOn), h.learnt]

/-- Whatever becomes of the frame, the lock and the meters are those of the trunk sync event. -/
theorem LocksTrunk.locks (h : LocksTrunk s f) (l : List Nat) (n : Nat) :
    SameSync s.trunkSync ((s.setAwaiting .t l).classify .t n f) := by
  obtain ⟨-, -, -, hlock, hmeters, -⟩ := learn_keeps s.trunkSync f.src .t
  have hwaiting : SameSync s.trunkSync ((s.trunkSync.learn f.src .t).2.setAwaiting .t l) :=
    SameSync.trans ⟨hlock, hmeters⟩ (.awaiting _ .t l)
  cases hlearn : (s.trunkSync.learn f.src .t).1 with
  | guard =>
    rw [h.guard l n hlearn]
    exact hwaiting.trans (.egress (count_only _ .t _))
  | goOn =>
    rw [h.goOn l n hlearn]
    exact hwaiting.trans (.manageStep h.kind _ _ _)

/-! ## The flood (R39, R50) -/

/-- The ACTIVE branches. -/
def activeBranches (s : State) : List Port := branches.filter s.isActive

theorem mem_activeBranches : q ∈ activeBranches s ↔ q ≠ .t ∧ (s.port q).state = .active := by
  unfold activeBranches
  rw [List.mem_filter, isActive_iff]
  refine and_congr_left (fun _ => ?_)
  cases q <;> decide

theorem activeBranches_nodup (s : State) : (activeBranches s).Nodup :=
  List.Nodup.sublist List.filter_sublist (show branches.Nodup by decide)

theorem countP_activeBranches (s : State) (g : Port → Bool) :
    (activeBranches s).countP g = allPorts.countP (fun q => decide (q ≠ .t) && s.isActive q && g q) := by
  unfold activeBranches
  rw [List.countP_filter]
  unfold allPorts branches
  simp [List.countP_cons, Bool.and_comm]

/-- The frame as it is flooded. -/
def floodedFrame (f : Frame) : Frame := ({ f with hops := f.hops - 1 }).recheck

theorem forwardSync_none (h : ∀ q, q ≠ .t → (s.port q).state ≠ .active) (p : Port) (n : Nat) (f : Frame) :
    s.forwardSync p n f = s.count p .rxUnreach := by
  have hempty : activeBranches s = [] :=
    List.eq_nil_iff_forall_not_mem.mpr (fun q hq => h q (mem_activeBranches.mp hq).1 (mem_activeBranches.mp hq).2)
  exact if_pos (by rw [show branches.filter s.isActive = [] from hempty]; rfl)

theorem forwardSync_some (h : ∃ q, q ≠ .t ∧ (s.port q).state = .active) (p : Port) (n : Nat) (f : Frame) :
    s.forwardSync p n f = State.placeAll f.cls n (activeBranches s) (s.rewriteSlot n (floodedFrame f)) := by
  obtain ⟨q, hq⟩ := h
  have hmem : q ∈ branches.filter s.isActive := mem_activeBranches.mpr hq
  refine if_neg (fun hempty => ?_)
  rw [List.isEmpty_iff.mp hempty] at hmem
  exact nomatch hmem

theorem rewriteSlot_eq (hx : s.slot n = some x) (f : Frame) :
    s.rewriteSlot n f = s.setSlots (put n { x with frame := f } s.store.slots) := by
  unfold State.rewriteSlot
  rw [hx]

/-- The flood places the slot's new content at every ACTIVE branch. -/
theorem forwardSync_placedAt (h : ∃ q, q ≠ .t ∧ (s.port q).state = .active) (hidle : IdleIsEmpty s)
    (hx : s.slot n = some x) (h1 : 1 ≤ x.refs) (p : Port) :
    PlacedAt (s.setSlots (put n { x with frame := floodedFrame x.frame } s.store.slots)) (s.forwardSync p n x.frame)
      x.frame.cls n { x with frame := floodedFrame x.frame } (activeBranches s) := by
  rw [forwardSync_some h, rewriteSlot_eq hx]
  refine placeAll_placedAt (fun q hq => ?_) (activeBranches_nodup s) (lookup_put_self _ _ _) h1
  exact (Takes.of_active hidle (isActive_iff.mpr (mem_activeBranches.mp hq).2)).of_port rfl

theorem rising_forwardSync (h : ∃ q, q ≠ .t ∧ (s.port q).state = .active) (hx : s.slot n = some x)
    (hr : rising s.store.slots = true) (p : Port) : rising (s.forwardSync p n x.frame).store.slots = true := by
  rw [forwardSync_some h, rewriteSlot_eq hx]
  have hput : rising (s.setSlots (put n { x with frame := floodedFrame x.frame } s.store.slots)).store.slots = true :=
    rising_put hr
  exact risingSlots_common.placeAll _ hput

/-- What a SYNC frame's flood and the release that ends its classification leave of the part `v`. -/
structure Flooded (v t : State) (n : Nat) (x : Slot) : Prop where
  rules : t.rules = v.rules
  stations : t.stations = v.stations
  meters : t.meters = v.meters
  sync : t.sync = v.sync
  agent : t.agent = v.agent
  sources : t.notices.sources = v.notices.sources
  trunk : t.port .t = v.port .t
  others : ∀ q, q ≠ .t → t.port q =
    if (v.port q).state = .active then placedUnit (v.port q) x.frame.cls n (staleNow v q x) else v.port q
  slot : t.slot n =
    if standing v x.frame.cls x (activeBranches v) = 0 then none
    else some { x with frame := floodedFrame x.frame, refs := standing v x.frame.cls x (activeBranches v) }

theorem forwardSync_floods (h : ∃ q, q ≠ .t ∧ (s.port q).state = .active) (hidle : IdleIsEmpty s)
    (hr : rising s.store.slots = true) (hx : s.slot n = some x) (h1 : x.refs = 1) :
    Flooded s ((s.forwardSync .t n x.frame).releaseRef n) n x := by
  have hplaced := forwardSync_placedAt h hidle hx (Nat.le_of_eq h1.symm) .t
  have hrising := rising_forwardSync h hx hr .t
  generalize s.forwardSync .t n x.frame = v at *
  have honly := releaseRef_only v .t n
  have hport : ∀ q, (v.releaseRef n).port q = v.port q := fun q => congrArg (PerPort.get · q) (releaseRef_ports v n)
  have hstanding : standing (s.setSlots (put n { x with frame := floodedFrame x.frame } s.store.slots)) x.frame.cls
      { x with frame := floodedFrame x.frame } (activeBranches s) = standing s x.frame.cls x (activeBranches s) := rfl
  have hslot := (slot_releaseRef hrising hplaced.slot).1
  rw [hstanding, show x.refs + standing s x.frame.cls x (activeBranches s) - 1 = standing s x.frame.cls x (activeBranches s) by
    omega] at hslot
  exact
    { rules := honly.rules.trans hplaced.rules
      stations := honly.stations.trans hplaced.stations
      meters := honly.meters.trans hplaced.meters
      sync := honly.sync.trans hplaced.sync
      agent := honly.agent.trans hplaced.agent
      sources := by
        rw [honly.notices]
        exact hplaced.sources
      trunk := (hport .t).trans (hplaced.others .t (fun hmem => (mem_activeBranches.mp hmem).1 rfl))
      others := fun q hq => by
        rw [hport]
        by_cases hactive : (s.port q).state = .active
        · rw [if_pos hactive]
          exact hplaced.targets q (mem_activeBranches.mpr ⟨hq, hactive⟩)
        · rw [if_neg hactive]
          exact hplaced.others q (fun hmem => hactive (mem_activeBranches.mp hmem).2)
      slot := hslot }

/-! ## The outcomes -/

/-- A trunk sync event leaves everything but the lock and the meters. -/
theorem trunkSync_keeps (s : State) :
    s.trunkSync.store = s.store ∧ s.trunkSync.ports = s.ports ∧ s.trunkSync.agent = s.agent ∧
      s.trunkSync.rules = s.rules ∧ s.trunkSync.stations = s.stations := by
  rw [(trunkSync_only s).1]
  exact ⟨rfl, rfl, rfl, rfl, rfl⟩

/-- The part that has locked, learned and taken the frame from the waiting line. -/
def lockedPart (s : State) (a : Word) (l : List Nat) : State := (s.trunkSync.learn a .t).2.setAwaiting .t l

theorem lockedPart_keeps (s : State) (a : Word) (l : List Nat) :
    (lockedPart s a l).ports = s.ports ∧ (lockedPart s a l).store.slots = s.store.slots ∧
      (lockedPart s a l).store.clock = s.store.clock ∧ (lockedPart s a l).agent = s.agent ∧
      (lockedPart s a l).rules = s.rules := by
  obtain ⟨hstore, hports, hagent, -, -, hrules, -⟩ := learn_keeps s.trunkSync a .t
  obtain ⟨hstore', hports', hagent', hrules', -⟩ := trunkSync_keeps s
  have hslots := congrArg FrameStore.slots (hstore.trans hstore')
  have hclock := congrArg FrameStore.clock (hstore.trans hstore')
  exact ⟨hports.trans hports', hslots, hclock, hagent.trans hagent', hrules.trans hrules'⟩

theorem lockedPart_port (s : State) (a : Word) (l : List Nat) (q : Port) : (lockedPart s a l).port q = s.port q :=
  congrArg (PerPort.get · q) (lockedPart_keeps s a l).1

/-- The frame awaits classification on the trunk and locks it. -/
structure LocksAlone (s : State) (n : Nat) (rest : List Nat) (x : Slot) : Prop extends AwaitsAlone s .t n rest x where
  locks : LocksTrunk s x.frame

theorem LocksAlone.slot_locked (h : LocksAlone s n rest x) : (s.trunkSync.learn x.frame.src .t).2.slot n = some x :=
  (congrArg (lookup n) (lockedPart_keeps s x.frame.src rest).2.1).trans h.slot

theorem LocksAlone.goOn (h : LocksAlone s n rest x) (hgoOn : (s.trunkSync.learn x.frame.src .t).1 = .goOn) :
    exec (.classification .t) s = .next (((lockedPart s x.frame.src rest).manageStep .t n x.frame).releaseRef n) := by
  rw [classification_entered h.toAwaitsAlone, h.locks.goOn rest n hgoOn]
  rfl

theorem LocksAlone.counted (h : LocksAlone s n rest x) (hgoOn : (s.trunkSync.learn x.frame.src .t).1 = .goOn)
    (hstep : (lockedPart s x.frame.src rest).manageStep .t n x.frame = (lockedPart s x.frame.src rest).count .t c) :
    exec (.classification .t) s = .next ((discarded (s.trunkSync.learn x.frame.src .t).2 .t n rest).count .t c) := by
  rw [h.goOn hgoOn, hstep]
  exact congrArg Host.Outcome.next (release_counted h.slot_locked h.alone h.arrival c)

/-- A SYNC frame for others goes on to step 5. -/
theorem LocksAlone.through (h : LocksAlone s n rest x) (hdest : x.frame.dest ≠ s.agent.address) :
    (lockedPart s x.frame.src rest).manageStep .t n x.frame = (lockedPart s x.frame.src rest).forward .t n x.frame := by
  refine manageStep_through ?_ (fun hm => nomatch h.locks.kind.symm.trans hm.1)
  rw [(lockedPart_keeps s x.frame.src rest).2.2.2.1]
  exact hdest

theorem LocksAlone.active_locked (h : LocksAlone s n rest x) : ((lockedPart s x.frame.src rest).port .t).state = .active := by
  rw [lockedPart_port]
  exact h.locks.active

theorem LocksAlone.floods (h : LocksAlone s n rest x) (hidle : IdleIsEmpty s) (hok : SlotsOk s)
    (hgoOn : (s.trunkSync.learn x.frame.src .t).1 = .goOn) (hdest : x.frame.dest ≠ s.agent.address)
    (hhops : x.frame.hops ≠ 0) (hbranch : ∃ q, q ≠ .t ∧ (s.port q).state = .active) :
    ∃ t, exec (.classification .t) s = .next t ∧ Flooded (lockedPart s x.frame.src rest) t n x := by
  refine ⟨_, h.goOn hgoOn, ?_⟩
  rw [h.through hdest, forward_sync h.active_locked hhops h.locks.kind]
  refine forwardSync_floods ?_ (fun q => ?_) ?_ h.slot_locked h.alone
  · obtain ⟨q, hq, hactive⟩ := hbranch
    exact ⟨q, hq, by rw [lockedPart_port]; exact hactive⟩
  · rw [lockedPart_port]
    exact hidle q
  · rw [(lockedPart_keeps s x.frame.src rest).2.1]
    exact hok.1

/-- Settles O28: the lock and the meters first, and then each outcome. -/
theorem syncFrameKeepsTheLock : Obligations.SyncFrameKeepsTheLock := by
  unfold Obligations.SyncFrameKeepsTheLock
  refine ⟨fun s n rest x hheld hrun hold hx hactive hkind hsrc => ?_, fun s n rest x h hidle hok hrun hactive hkind hsrc => ?_⟩
  · obtain ⟨hlock, hmeters⟩ := (LocksTrunk.mk hrun hactive hkind hsrc).locks rest n
    have honly := releaseRef_only ((s.setAwaiting .t rest).classify .t n x.frame) .t n
    obtain ⟨hlocked, hserved⟩ := trunkSync_lock s
    exact ⟨_, exec_classification hheld hold hx, honly.sync.trans (hlock.trans hlocked),
      honly.meters.trans (hmeters.trans hserved)⟩
  have hlocks : LocksAlone s n rest x := { h with locks := ⟨hrun, hactive, hkind, hsrc⟩ }
  have hstation : ∀ a, s.trunkSync.station a = s.station a := fun a =>
    congrArg (fun st : StationTable => lookup a.toNat st.entries) (trunkSync_keeps s).2.2.2.2
  refine ⟨fun q hq hpinned => ?_, fun hpinned => ?_⟩
  · have hguard := learn_guard hq ((hstation x.frame.src).trans hpinned)
    rw [classification_entered h, hlocks.locks.guard rest n (by rw [hguard]), release_counted hlocks.slot_locked h.alone h.arrival,
      hguard]
  have hgoOn : (s.trunkSync.learn x.frame.src .t).1 = .goOn := learn_goOn (fun q hq => by
    rw [hstation]
    exact hpinned q hq)
  refine ⟨fun hdest => ?_, fun hdest hhops => ?_, fun hdest hhops hnone => ?_, fun hdest hhops hbranch => ?_⟩
  · refine hlocks.counted hgoOn (manageStep_local ?_ (by rw [hkind]; exact nofun))
    rw [(lockedPart_keeps s x.frame.src rest).2.2.2.1]
    exact hdest
  · exact hlocks.counted hgoOn ((hlocks.through hdest).trans (forward_expired hlocks.active_locked hhops))
  · refine hlocks.counted hgoOn ((hlocks.through hdest).trans ((forward_sync hlocks.active_locked hhops hkind).trans
      (forwardSync_none (fun q hq => ?_) .t n x.frame)))
    rw [lockedPart_port]
    exact hnone q hq
  · obtain ⟨t, hexec, hflooded⟩ := hlocks.floods hidle hok hgoOn hdest hhops hbranch
    obtain ⟨hports, -, hclock, hagent, hrules⟩ := lockedPart_keeps s x.frame.src rest
    have hstale : ∀ q, staleNow (lockedPart s x.frame.src rest) q x = staleNow s q x := fun q =>
      staleNow_congr (lockedPart_port s _ rest q) hclock rfl
    have hstanding : standing (lockedPart s x.frame.src rest) x.frame.cls x (activeBranches (lockedPart s x.frame.src rest)) =
        allPorts.countP (fun q => decide (q ≠ .t) && s.isActive q && placedStands (s.port q) x.frame.cls (staleNow s q x)) := by
      unfold standing
      rw [countP_activeBranches]
      refine congrArg (List.countP · allPorts) (funext fun q => ?_)
      rw [hstale, lockedPart_port, isActive_congr hports]
    refine ⟨t, hexec, hflooded.rules.trans hrules, hflooded.stations, hflooded.meters, hflooded.sync,
      hflooded.agent.trans hagent, hflooded.sources, hflooded.trunk.trans (lockedPart_port s _ rest .t), fun q hq => ?_, ?_⟩
    · rw [hflooded.others q hq, hstale, lockedPart_port]
    · rw [hflooded.slot, hstanding]
      rfl

end Sys2Proof.Machine
end

section
/-! SUPPORT. Capture (7.2): what becomes of an offered frame by its key, at the Agent and at the slot, and the further way of a
broadcast one; and the statement that collects the outcomes. -/

namespace Sys2Proof.Machine

open Sys2Proof.Safety

variable {s t u b v w : State} {p q : Port} {n k : Nat} {x y : Slot} {rest : List Nat} {f reply : Frame} {g a : Agent}

/-! ## A reply sent again (R141) -/

/-- What became of a frame that the part built for a port in service, with a slot free: placed, or lost to a full queue. -/
theorem placeOwn_outcome (hk : s.lowestFreeSlot = some k) (hp : s.inService p = true) :
    (s.placeOwn p f).1 = if 32 ≤ (s.port p).egress.q3.length then .queueFull else .placed k := by
  unfold State.placeOwn
  rw [hk]
  dsimp only
  rw [if_pos hp]
  have hfull : s.queueFull p 3 = true ↔ 32 ≤ (s.port p).egress.q3.length := decide_eq_true_iff
  by_cases h : 32 ≤ (s.port p).egress.q3.length
  · rw [if_pos h, if_pos (hfull.mpr h)]
  · rw [if_neg h, if_neg (fun hf => h (hfull.mp hf))]

/-- The Agent after a reply that could not be placed. -/
def lostReply (g : Agent) : Agent := { g with replyLost := g.replyLost + 1 }

theorem resend_without_slot (hk : s.lowestFreeSlot = none) (p : Port) (reply : Frame) :
    s.resend p reply = { s with agent := lostReply s.agent } := by
  unfold State.resend
  rw [placeOwn_without_slot hk]
  rfl

theorem resend_with_slot (hk : s.lowestFreeSlot = some k) (hp : s.inService p = true) (hset : settledAt s p) (reply : Frame) :
    s.resend p reply =
      { ownFrameOffered s p k reply with
        agent := if 32 ≤ (s.port p).egress.q3.length then lostReply s.agent else s.agent } := by
  unfold State.resend
  dsimp only
  rw [placeOwn_outcome hk hp, placeOwn_offered hk hset]
  obtain ⟨-, hagent, -⟩ := ownFrameOffered_keeps s p k reply
  split
  · rw [← hagent]
    rfl
  · rw [← hagent]
    rfl

/-! ## The checks of the key (R140) -/

theorem offerKeyed_cached (h : s.agent.cached f.src (requestId f.payload) = some reply) :
    s.offerKeyed p n f = s.resend p reply := by
  unfold State.offerKeyed
  dsimp only
  rw [h]

theorem offerKeyed_duplicate (h : s.agent.cached f.src (requestId f.payload) = none)
    (hd : s.agent.duplicate f.src (requestId f.payload) = true) :
    s.offerKeyed p n f = { s with agent := { s.agent with reqDuplicate := s.agent.reqDuplicate + 1 } } := by
  unfold State.offerKeyed
  dsimp only
  rw [h]
  exact if_pos hd

theorem offerKeyed_dropped (h : s.agent.cached f.src (requestId f.payload) = none)
    (hd : s.agent.duplicate f.src (requestId f.payload) = false) (hq : 4 ≤ s.agent.queue.length) :
    s.offerKeyed p n f = { s with agent := { s.agent with reqDropped := s.agent.reqDropped + 1 } } := by
  unfold State.offerKeyed
  dsimp only
  rw [h]
  exact (if_neg (by rw [hd]; exact Bool.false_ne_true)).trans (if_pos hq)

/-- The Agent with a request more: at once in an empty execution position, oldest first (R144). -/
def withRequest (g : Agent) (r : Request) : Agent :=
  if g.executing = none then { g with queue := (g.queue ++ [r]).tail, executing := (g.queue ++ [r]).head? }
  else { g with queue := g.queue ++ [r] }

theorem takeRequest_running (hrun : s.device.state = .running) {r : Request} {l : List Request} (hq : s.agent.queue = l ++ [r]) :
    s.takeRequest =
      { s with
        agent :=
          if s.agent.executing = none then { s.agent with queue := (l ++ [r]).tail, executing := (l ++ [r]).head? }
          else s.agent } := by
  unfold State.takeRequest
  by_cases hexec : s.agent.executing = none
  · rw [if_pos ⟨hexec, hrun⟩, if_pos hexec, hq]
    cases l <;> rfl
  · rw [if_neg (fun h => hexec h.1), if_neg hexec]

theorem offerKeyed_taken (hrun : s.device.state = .running) (hx : s.slot n = some x)
    (h : s.agent.cached f.src (requestId f.payload) = none) (hd : s.agent.duplicate f.src (requestId f.payload) = false)
    (hq : s.agent.queue.length < 4) :
    s.offerKeyed p n f =
      { s with
        store := { s.store with slots := put n { x with refs := x.refs + 1 } s.store.slots }
        agent := withRequest s.agent ⟨f.src, requestId f.payload, p, n⟩ } := by
  unfold State.offerKeyed
  dsimp only
  rw [h]
  refine (if_neg (by rw [hd]; exact Bool.false_ne_true)).trans ((if_neg (Nat.not_le.mpr hq)).trans ?_)
  unfold State.capture
  rw [addRef_eq (x := x) (by exact hx), takeRequest_running (by exact hrun) (l := s.agent.queue) (by rfl)]
  unfold withRequest
  rfl

/-! ## The part that an offer leaves -/

/-- The part `b` in which slot `n` holds `y`, with the Agent `a`, is what an offer of the frame of port `p` leaves of the part
that has learned from `s`, but for the frames that await; the release of the classification's reference makes `w` of it. -/
structure OfferLeaves (s : State) (p : Port) (n : Nat) (rest : List Nat) (x : Slot) (b : State) (y : Slot) (w : State)
    (a : Agent) : Prop where
  slot : b.slot n = some y
  frame : y.frame = x.frame
  refs : 1 ≤ y.refs
  release : (({ b with agent := a } : State).setAwaiting p rest).releaseRef n = { w with agent := a }
  state : (b.port p).state = (s.port p).state
  idle : IdleIsEmpty s → IdleIsEmpty b
  rising : SlotsOk s → rising b.store.slots = true

/-- The offer has left the slot as it was. -/
theorem OfferLeaves.of_slot (h : Enters s p n rest x) (hslot : b.slot n = some x)
    (hstate : (b.port p).state = (s.port p).state) (hidle : IdleIsEmpty s → IdleIsEmpty b)
    (hrising : SlotsOk s → Machine.rising b.store.slots = true) (a : Agent) :
    OfferLeaves s p n rest x b x (discarded b p n rest) a where
  slot := hslot
  frame := rfl
  refs := Nat.le_of_eq h.alone.symm
  release := release_alone (v := ({ b with agent := a } : State).setAwaiting p rest) hslot h.alone h.arrival
  state := hstate
  idle := hidle
  rising := hrising

theorem OfferLeaves.learned (h : Enters s p n rest x) (a : Agent) :
    OfferLeaves s p n rest x (s.learn x.frame.src p).2 x (discarded (s.learn x.frame.src p).2 p n rest) a :=
  .of_slot h h.slot_learned (by rw [show (s.learn x.frame.src p).2.port p = s.port p from port_learned s _ p p rest])
    (fun hidle => idle_learned hidle x.frame.src p rest) (fun hok => rising_learned hok x.frame.src p rest) a

/-- A frame of the part's own keeps every egress in its form and an IDLE one empty. -/
theorem idle_ownFrameOffered (h : IdleIsEmpty s) (p : Port) (k : Nat) (reply : Frame) :
    IdleIsEmpty (ownFrameOffered s p k reply) := by
  unfold ownFrameOffered
  split
  · exact h
  · intro q
    unfold State.port
    dsimp only
    rw [PerPort.get_set]
    split
    next hq =>
      subst hq
      obtain ⟨hform, hempty⟩ := h q
      unfold placedUnit
      split
      · exact ⟨hform, hempty⟩
      split
      next hsending => exact ⟨hform, fun hnone => absurd hnone hsending⟩
      · exact ⟨hform, nofun⟩
    next => exact h q

theorem state_ownFrameOffered (s : State) (p : Port) (k : Nat) (reply : Frame) (q : Port) :
    ((ownFrameOffered s p k reply).port q).state = (s.port q).state := by
  unfold ownFrameOffered
  split
  · rfl
  · unfold State.port
    dsimp only
    rw [PerPort.get_set]
    split
    next hq =>
      subst hq
      unfold placedUnit
      repeat' split
      all_goals rfl
    next => rfl

theorem rising_ownFrameOffered (h : rising s.store.slots = true) (p : Port) (k : Nat) (reply : Frame) :
    rising (ownFrameOffered s p k reply).store.slots = true := by
  unfold ownFrameOffered
  split
  · exact h
  · dsimp only
    split
    · exact h
    · exact rising_put h

theorem slot_ownFrameOffered (hnk : n ≠ k) (s : State) (p : Port) (reply : Frame) :
    (ownFrameOffered s p k reply).slot n = s.slot n := by
  unfold ownFrameOffered State.slot
  split
  · rfl
  · dsimp only
    split
    · rfl
    · exact lookup_put_other hnk _ _

theorem ownFrameOffered_setAwaiting (s : State) (p q : Port) (k : Nat) (reply : Frame) (l : List Nat) :
    ownFrameOffered (s.setAwaiting q l) p k reply = (ownFrameOffered s p k reply).setAwaiting q l := by
  by_cases hp : s.inService p = false
  · have hplain : ownFrameOffered s p k reply = s := if_pos hp
    rw [hplain]
    exact if_pos hp
  · refine Eq.trans (if_neg (by exact hp)) ?_
    exact (congrArg (State.setAwaiting · q l) (if_neg hp : ownFrameOffered s p k reply = _)).symm

theorem OfferLeaves.resent (h : Enters s p n rest x) (hk : s.lowestFreeSlot = some k) (reply : Frame) (a : Agent) :
    OfferLeaves s p n rest x (ownFrameOffered (s.learn x.frame.src p).2 p k reply) x
      (discarded (ownFrameOffered (s.learn x.frame.src p).2 p k reply) p n rest) a := by
  have hlearned := OfferLeaves.learned h a
  have hnk : n ≠ k := by
    rintro rfl
    exact nomatch h.slot.symm.trans (lowestFreeSlot_free hk).2
  exact .of_slot h ((slot_ownFrameOffered hnk _ p reply).trans hlearned.slot)
    ((state_ownFrameOffered _ p k reply p).trans hlearned.state)
    (fun hidle => idle_ownFrameOffered (hlearned.idle hidle) p k reply)
    (fun hok => rising_ownFrameOffered (hlearned.rising hok) p k reply) a

/-- A taken request refers to the slot beside the classification. -/
theorem OfferLeaves.taken (h : Enters s p n rest x) (a : Agent) :
    OfferLeaves s p n rest x
      { (s.learn x.frame.src p).2 with
        store := { (s.learn x.frame.src p).2.store with slots := put n { x with refs := 2 } s.store.slots } }
      { x with refs := 2 }
      { (s.learn x.frame.src p).2 with
        store :=
          { (s.learn x.frame.src p).2.store with slots := put n x s.store.slots, awaiting := s.store.awaiting.set p rest } }
      a where
  slot := lookup_put_self _ _ _
  frame := rfl
  refs := Nat.le_succ 1
  release := by
    refine (releaseRef_more (x := { x with refs := 2 }) (by exact lookup_put_self _ _ _) (Nat.lt_succ_self 1)).trans ?_
    obtain ⟨hstore, -⟩ := learn_keeps s x.frame.src p
    have hone : ({ x with refs := 1 } : Slot) = x := by rw [← h.alone]
    unfold State.setSlots State.setAwaiting
    dsimp only
    rw [put_put, show ({ x with refs := 2 - 1 } : Slot) = x from hone, hstore]
  state := (OfferLeaves.learned h a).state
  idle := (OfferLeaves.learned h a).idle
  rising := fun hok => rising_put hok.1

/-! ## The offer itself -/

/-- The part that has learned, with the frame taken from the waiting line. -/
def learnedPart (s : State) (p : Port) (rest : List Nat) (x : Slot) : State :=
  (s.learn x.frame.src p).2.setAwaiting p rest

theorem learnedPart_keeps (s : State) (p : Port) (rest : List Nat) (x : Slot) :
    (learnedPart s p rest x).agent = s.agent ∧ (learnedPart s p rest x).device = s.device ∧
      (learnedPart s p rest x).store.slots = s.store.slots ∧ (learnedPart s p rest x).ports = s.ports := by
  obtain ⟨hstore, hports, hagent, -, -, -, hdevice⟩ := learn_keeps s x.frame.src p
  have hslots := congrArg FrameStore.slots hstore
  exact ⟨hagent, hdevice, hslots, hports⟩

theorem learnedPart_free (s : State) (p : Port) (rest : List Nat) (x : Slot) :
    (learnedPart s p rest x).lowestFreeSlot = s.lowestFreeSlot := by
  unfold State.lowestFreeSlot
  rw [(learnedPart_keeps s p rest x).2.2.1]

theorem learnedPart_port (s : State) (p : Port) (rest : List Nat) (x : Slot) (q : Port) :
    (learnedPart s p rest x).port q = s.port q := port_learned s _ p q rest

/-- The part `b` with the Agent `a`, the frame taken from the waiting line. -/
def offerLeft (b : State) (a : Agent) (p : Port) (rest : List Nat) : State := ({ b with agent := a } : State).setAwaiting p rest

/-- The offer's frame has no cached reply. -/
def Uncached (s : State) (x : Slot) : Prop := s.agent.cached x.frame.src (requestId x.frame.payload) = none

theorem keyed_duplicate (hc : Uncached s x) (hd : s.agent.duplicate x.frame.src (requestId x.frame.payload) = true) :
    (learnedPart s p rest x).offerKeyed p n x.frame =
      offerLeft (s.learn x.frame.src p).2 { s.agent with reqDuplicate := s.agent.reqDuplicate + 1 } p rest := by
  have hagent := (learnedPart_keeps s p rest x).1
  rw [offerKeyed_duplicate (by rw [hagent]; exact hc) (by rw [hagent]; exact hd), hagent]
  rfl

theorem keyed_dropped (hc : Uncached s x) (hd : s.agent.duplicate x.frame.src (requestId x.frame.payload) = false)
    (hq : 4 ≤ s.agent.queue.length) :
    (learnedPart s p rest x).offerKeyed p n x.frame =
      offerLeft (s.learn x.frame.src p).2 { s.agent with reqDropped := s.agent.reqDropped + 1 } p rest := by
  have hagent := (learnedPart_keeps s p rest x).1
  rw [offerKeyed_dropped (by rw [hagent]; exact hc) (by rw [hagent]; exact hd) (by rw [hagent]; exact hq), hagent]
  rfl

theorem keyed_lost (hc : s.agent.cached x.frame.src (requestId x.frame.payload) = some reply)
    (hk : s.lowestFreeSlot = none) :
    (learnedPart s p rest x).offerKeyed p n x.frame = offerLeft (s.learn x.frame.src p).2 (lostReply s.agent) p rest := by
  have hagent := (learnedPart_keeps s p rest x).1
  rw [offerKeyed_cached (by rw [hagent]; exact hc), resend_without_slot ((learnedPart_free s p rest x).trans hk), hagent]
  rfl

theorem keyed_resent (hp : s.inService p = true) (hc : s.agent.cached x.frame.src (requestId x.frame.payload) = some reply)
    (hk : s.lowestFreeSlot = some k) (hset : settledAt s p) :
    (learnedPart s p rest x).offerKeyed p n x.frame =
      offerLeft (ownFrameOffered (s.learn x.frame.src p).2 p k reply)
        (if 32 ≤ (s.port p).egress.q3.length then lostReply s.agent else s.agent) p rest := by
  have hagent := (learnedPart_keeps s p rest x).1
  have hport := learnedPart_port s p rest x p
  rw [offerKeyed_cached (by rw [hagent]; exact hc), resend_with_slot ((learnedPart_free s p rest x).trans hk)
    (by rw [inService_eq_unit, hport]; exact hp) (by unfold settledAt; rw [hport]; exact hset), hagent, hport]
  exact congrArg (fun v : State => ({ v with
    agent := if 32 ≤ (s.port p).egress.q3.length then lostReply s.agent else s.agent } : State))
    (ownFrameOffered_setAwaiting _ p p k reply rest)

theorem keyed_taken (h : Enters s p n rest x) (hc : Uncached s x)
    (hd : s.agent.duplicate x.frame.src (requestId x.frame.payload) = false) (hq : s.agent.queue.length < 4) :
    (learnedPart s p rest x).offerKeyed p n x.frame =
      offerLeft
        { (s.learn x.frame.src p).2 with
          store := { (s.learn x.frame.src p).2.store with slots := put n { x with refs := 2 } s.store.slots } }
        (withRequest s.agent ⟨x.frame.src, requestId x.frame.payload, p, n⟩) p rest := by
  obtain ⟨hagent, hdevice, hslots, -⟩ := learnedPart_keeps s p rest x
  have htwo : ({ x with refs := x.refs + 1 } : Slot) = { x with refs := 2 } := by rw [h.alone]
  rw [offerKeyed_taken (s := learnedPart s p rest x) (x := x) (by rw [hdevice]; exact h.passes.running) h.slot_learned (by rw [hagent]; exact hc)
    (by rw [hagent]; exact hd) (by rw [hagent]; exact hq), hagent, hslots, htwo]
  rfl

/-! ## A request to the part -/

/-- A MGMT frame to the part's own address, past the guard, on a port that allows management. -/
structure Direct (s : State) (p : Port) (n : Nat) (rest : List Nat) (x : Slot) : Prop extends Enters s p n rest x where
  goesOn : (s.learn x.frame.src p).1 = .goOn
  kind : x.frame.kind = .mgmt
  dest : x.frame.dest = s.agent.address
  allowed : (s.port p).allowed = true

theorem Direct.offered (h : Direct s p n rest x) :
    exec (.classification p) s = .next (((learnedPart s p rest x).offerDirect p n x.frame).releaseRef n) := by
  have hstep := manageStep_direct (s := learnedPart s p rest x) (n := n) (by
    rw [(learnedPart_keeps s p rest x).1]
    exact h.dest) h.kind (by
    rw [learnedPart_port]
    exact h.allowed)
  rw [h.toEnters.goOn h.goesOn, ← hstep]
  rfl

theorem Direct.malformed (h : Direct s p n rest x) (hlen : x.frame.payload.length < 4) :
    exec (.classification p) s = .next
      { discarded (s.learn x.frame.src p).2 p n rest with
        agent := { s.agent with reqMalformed := s.agent.reqMalformed + 1 } } := by
  have hstep : (learnedPart s p rest x).offerDirect p n x.frame =
      offerLeft (s.learn x.frame.src p).2 { s.agent with reqMalformed := s.agent.reqMalformed + 1 } p rest := by
    refine (if_pos hlen).trans ?_
    rw [(learnedPart_keeps s p rest x).1]
    rfl
  rw [h.offered, hstep]
  exact congrArg Host.Outcome.next (OfferLeaves.learned h.toEnters _).release

theorem Direct.keyed (h : Direct s p n rest x) (hlen : 4 ≤ x.frame.payload.length)
    (hkey : (learnedPart s p rest x).offerKeyed p n x.frame = offerLeft b a p rest)
    (hleaves : OfferLeaves s p n rest x b y w a) : exec (.classification p) s = .next { w with agent := a } := by
  have hstep : (learnedPart s p rest x).offerDirect p n x.frame = offerLeft b a p rest :=
    (if_neg (Nat.not_lt.mpr hlen)).trans hkey
  rw [h.offered, hstep]
  exact congrArg Host.Outcome.next hleaves.release

/-! ## A request to broadcast -/

/-- What is said of the further way of a broadcast frame, when its offer has left `b` and `y` and the Agent `a`. -/
def GoesOn (s : State) (p : Port) (n : Nat) (x : Slot) (b : State) (y : Slot) (w : State) (a : Agent) : Prop :=
  (∃ t, exec (.classification p) s = .next t ∧ t.agent = a) ∧
  ((s.port p).state = .listen → exec (.classification p) s = .next { w.count p .rxListen with agent := a }) ∧
  ((s.port p).state = .active → x.frame.hops = 0 →
    exec (.classification p) s = .next { w.count p .rxExpired with agent := a }) ∧
  ((s.port p).state = .active → x.frame.hops ≠ 0 → IdleIsEmpty s → SlotsOk s →
    ∃ t, exec (.classification p) s = .next t ∧ DecisionCarriedOut { b with agent := a } p n y t)

/-- A MGMT frame to broadcast, past the guard. -/
structure Broadcast (s : State) (p : Port) (n : Nat) (rest : List Nat) (x : Slot) : Prop extends Enters s p n rest x where
  goesOn : (s.learn x.frame.src p).1 = .goOn
  kind : x.frame.kind = .mgmt
  dest : x.frame.dest = 0xFFFF
  address : s.agent.address ≠ 0xFFFF

theorem releaseRef_free (h : s.slot n = none) : s.releaseRef n = s := by
  unfold State.releaseRef
  rw [h]

theorem count_releaseRef (s : State) (p : Port) (c : Counter) (n : Nat) :
    (s.count p c).releaseRef n = (s.releaseRef n).count p c := by
  cases hx : s.slot n with
  | none =>
    rw [releaseRef_free hx, releaseRef_free (s := s.count p c) hx]
  | some x =>
    by_cases h1 : x.refs ≤ 1
    · rw [releaseRef_last hx h1, releaseRef_last (s := s.count p c) hx h1]
      rfl
    · rw [releaseRef_more hx (Nat.not_le.mp h1), releaseRef_more (s := s.count p c) hx (Nat.not_le.mp h1)]
      rfl

theorem Broadcast.foreign (h : Broadcast s p n rest x) : x.frame.dest ≠ (learnedPart s p rest x).agent.address := by
  rw [(learnedPart_keeps s p rest x).1, h.dest]
  exact fun he => h.address he.symm

theorem Broadcast.passed (h : Broadcast s p n rest x) {B : State}
    (hstep : (learnedPart s p rest x).manageStep p n x.frame = B.forward p n x.frame) :
    exec (.classification p) s = .next ((B.forward p n x.frame).releaseRef n) := by
  rw [h.toEnters.goOn h.goesOn, ← hstep]
  rfl

/-- From step 5 on a broadcast frame is any other frame (R35). -/
theorem Broadcast.forwarded (h : Broadcast s p n rest x) (hleaves : OfferLeaves s p n rest x b y w a)
    (hstep : (learnedPart s p rest x).manageStep p n x.frame = (offerLeft b a p rest).forward p n x.frame) :
    GoesOn s p n x b y w a := by
  have hexec := h.passed hstep
  have hcounted : ∀ c, ((offerLeft b a p rest).count p c).releaseRef n = { w.count p c with agent := a } := fun c => by
    rw [count_releaseRef]
    exact congrArg (State.count · p c) hleaves.release
  have hstate : ((offerLeft b a p rest).port p).state = (s.port p).state := hleaves.state
  refine ⟨⟨_, hexec, ?_⟩, fun hlisten => ?_, fun hactive hhops => ?_, fun hactive hhops hidle hok => ⟨_, hexec, ?_⟩⟩
  · rw [(releaseRef_only _ p n).agent, forward_agent]
    rfl
  · rw [hexec, forward_listen (hstate.trans hlisten), hcounted]
  · rw [hexec, forward_expired (hstate.trans hactive) hhops, hcounted]
  · have hkind : x.frame.kind ≠ .sync := by
      rw [h.kind]
      exact nofun
    rw [forward_evaluated (hstate.trans hactive) hhops hkind, ← hleaves.frame]
    exact decisionCarriedOut_of_waiting (decision_carried (b := offerLeft b a p rest) hleaves.slot hleaves.refs
      (hleaves.idle hidle) (hleaves.rising hok))

theorem isCommand_iff {code : Byte} {payload : List Byte} : isCommand code payload = true ↔ commandCode payload = code :=
  decide_eq_true_iff

/-- Only an IDENTIFY on a port that allows management is offered. -/
def Offered (s : State) (p : Port) (x : Slot) : Prop :=
  (s.port p).allowed = true ∧ 4 ≤ x.frame.payload.length ∧ commandCode x.frame.payload = 0x01

theorem Broadcast.unoffered (h : Broadcast s p n rest x) (hnot : ¬ Offered s p x) :
    (learnedPart s p rest x).manageStep p n x.frame = (offerLeft (s.learn x.frame.src p).2 s.agent p rest).forward p n x.frame := by
  have hleft : offerLeft (s.learn x.frame.src p).2 s.agent p rest = learnedPart s p rest x := by
    unfold offerLeft
    rw [← (learnedPart_keeps s p rest x).1]
    rfl
  rw [hleft]
  by_cases hallowed : (s.port p).allowed = true
  · rw [manageStep_broadcast h.foreign h.kind h.dest (by rw [learnedPart_port]; exact hallowed)]
    refine congrArg (State.forward · p n x.frame) (if_neg (fun hm => hnot ⟨hallowed, hm.1, isCommand_iff.mp hm.2⟩))
  · exact manageStep_through h.foreign (fun hm => hallowed (by rw [← learnedPart_port s p rest x p]; exact hm.2.2))

theorem Broadcast.offered (h : Broadcast s p n rest x) (ho : Offered s p x)
    (hkey : (learnedPart s p rest x).offerKeyed p n x.frame = offerLeft b a p rest) :
    (learnedPart s p rest x).manageStep p n x.frame = (offerLeft b a p rest).forward p n x.frame := by
  obtain ⟨hallowed, hlen, hcode⟩ := ho
  rw [manageStep_broadcast h.foreign h.kind h.dest (by rw [learnedPart_port]; exact hallowed), ← hkey]
  exact congrArg (State.forward · p n x.frame) (if_pos ⟨hlen, isCommand_iff.mpr hcode⟩)

/-- Settles O29: the outcomes of a direct request, and those of a broadcast one. -/
theorem captureRules : Obligations.CaptureRules := by
  unfold Obligations.CaptureRules
  refine ⟨fun p s n rest x h hrun hp hkind hdest hsrc hgoOn => ?_,
    fun p s n rest x h hrun hp hkind hdest haddress hsrc hgoOn => ?_⟩
  · have henters : Enters s p n rest x :=
      { h with
        passes := ⟨hrun, hp, hsrc, fun hs => nomatch hkind.symm.trans hs⟩
        still := fun hs => nomatch hkind.symm.trans hs }
    refine ⟨fun hrefused => ?_, fun hallowed => ?_⟩
    · refine henters.counted hgoOn (manageStep_refused ?_ hkind ?_)
      · rw [show ((s.learn x.frame.src p).2.setAwaiting p rest).agent = s.agent from (learnedPart_keeps s p rest x).1]
        exact hdest
      · rw [port_learned]
        exact hrefused
    have hdirect : Direct s p n rest x :=
      { henters with goesOn := hgoOn, kind := hkind, dest := hdest, allowed := hallowed }
    refine ⟨hdirect.malformed, fun reply hlen hc => ⟨fun hk => ?_, fun k hk hset => ?_⟩, fun hlen hc => ⟨fun hd => ?_,
      fun hd hq => ?_, fun hd hq => ?_⟩⟩
    · exact hdirect.keyed hlen (keyed_lost hc hk) (.learned henters _)
    · exact hdirect.keyed hlen (keyed_resent hp hc hk hset) (.resent henters hk reply _)
    · exact hdirect.keyed hlen (keyed_duplicate hc hd) (.learned henters _)
    · exact hdirect.keyed hlen (keyed_dropped hc hd hq) (.learned henters _)
    · exact hdirect.keyed hlen (keyed_taken henters hc hd hq) (.taken henters _)
  · have hbroadcast : Broadcast s p n rest x :=
      { h with
        passes := ⟨hrun, hp, hsrc, fun hs => nomatch hkind.symm.trans hs⟩
        still := fun hs => nomatch hkind.symm.trans hs
        goesOn := hgoOn
        kind := hkind
        dest := hdest
        address := haddress }
    have henters := hbroadcast.toEnters
    refine ⟨fun hnot => ?_, fun ho hc => ⟨fun hd => ?_, fun hd hq => ?_, fun hd hq => ?_⟩,
      fun reply ho hc => ⟨fun hk => ?_, fun k hk hset => ?_⟩⟩
    · exact hbroadcast.forwarded (.learned henters _) (hbroadcast.unoffered hnot)
    · exact hbroadcast.forwarded (.learned henters _) (hbroadcast.offered ho (keyed_duplicate hc hd))
    · exact hbroadcast.forwarded (.learned henters _) (hbroadcast.offered ho (keyed_dropped hc hd hq))
    · exact hbroadcast.forwarded (.taken henters _) (hbroadcast.offered ho (keyed_taken henters hc hd hq))
    · exact hbroadcast.forwarded (.learned henters _) (hbroadcast.offered ho (keyed_lost hc hk))
    · exact hbroadcast.forwarded (.resent henters hk reply _) (hbroadcast.offered ho (keyed_resent hp hc hk hset))

end Sys2Proof.Machine
end

section
/-! SUPPORT. The reply of an execution (7.3, 7.4): the slot and the port it is placed at, what steps 4 to 6 leave of it
(`ReplyTaken`), and the rows of the 25 commands (`ExecutionRow`). -/

namespace Sys2Proof.Machine

open Sys2Proof.Safety

variable {s t u : State} {p : Port} {n k : Nat} {x : Slot} {r : Request} {f y : Frame} {a : Answer} {i : Instr}
  {mine : List Byte → Bool}

/-! ## An entry accepted now at the tail of class queue 3 (R98, R99, R104) -/

/-- Slot `k` holds `x`, and stands at the tail of class queue 3 or in the transmitter of port `p`. -/
def StandsLast (p : Port) (k : Nat) (x : Slot) (s : State) : Prop :=
  s.slot k = some x ∧ ((s.port p).egress.q3.getLast? = some k ∨ (s.port p).egress.transmitter = some k)

theorem isStale_now (hx : s.slot n = some x) (hnow : x.accepted = s.store.clock) : s.isStale p n = false := by
  rw [isStale_eq_staleNow hx]
  refine decide_eq_false (fun h => absurd h.2 ?_)
  rw [hnow, Nat.sub_self]
  exact Nat.not_lt_zero _

/-- A selection takes the heads before the tail, discards the stale ones and stops at a fresh one, at the latest at the
tail. -/
theorem select_standsLast {l : List Nat} (hp : s.inService p = true) (ht : (s.port p).egress.transmitter = none)
    (hq : (s.port p).egress.q3 = l ++ [k]) (hk : k ∉ l) (hx : s.slot k = some x) (hnow : x.accepted = s.store.clock) :
    StandsLast p k x (s.select p) := by
  induction l generalizing s with
  | nil =>
    rw [select_takes_fresh hp ht (takesHead_three hq) (isStale_now hx hnow)]
    exact ⟨hx, .inr (congrArg (fun u : PortUnit => u.egress.transmitter) (State.port_setEgress_self s p _))⟩
  | cons m l ih =>
    obtain ⟨hkm, hkl⟩ := not_or.mp (fun h => hk (List.mem_cons.mpr h))
    have hhead := head_three (e := (s.port p).egress) (n := m) (rest := l ++ [k]) hq
    cases hstale : s.isStale p m with
    | false =>
      rw [select_takes_fresh hp ht (takesHead_three (rest := l ++ [k]) hq) hstale]
      refine ⟨hx, .inl ?_⟩
      rw [State.port_setEgress_self]
      exact List.getLast?_concat
    | true =>
      have honly := discardStale_only (c := 3) (n := m) (Egress.head_mem hhead).2.1
      have hegress := discardStale_egress s p 3 m (s.port p).egress
      rw [takeHead_three] at hegress
      rw [select_stale hp ht hhead hstale]
      refine ih ((honly.inService_eq p).trans hp) ?_ ?_ hkl ?_ (hnow.trans honly.clock.symm)
      · rw [hegress]
        exact ht
      · rw [hegress]
        exact congrArg (List.drop 1) hq
      · exact (honly.slots k (fun h => hkm (List.mem_singleton.mp h))).trans hx

/-- The placement of the first reference to a slot accepted now. -/
theorem enqueue_standsLast (hp : s.inService p = true) (hk : k ∉ (s.port p).egress.q3) (hx : s.slot k = some x)
    (hnow : x.accepted = s.store.clock) : StandsLast p k { x with refs := x.refs + 1 } (s.enqueue p 3 k) := by
  cases ht : (s.port p).egress.transmitter with
  | some m =>
    rw [enqueue_sending ht hx]
    refine ⟨lookup_put_self _ _ _, .inl ?_⟩
    refine (congrArg (fun u : PortUnit => u.egress.q3.getLast?) (State.port_setEgress_self s p _)).trans ?_
    exact List.getLast?_concat
  | none =>
    unfold State.enqueue
    dsimp only
    rw [addRef_eq (x := x) (by exact hx)]
    refine select_standsLast (l := (s.port p).egress.q3) ?_ ?_ ?_ hk (lookup_put_self _ _ _) hnow
    · rw [inService_eq_unit] at hp ⊢
      exact (congrArg unitInService (State.port_setEgress_self s p _)).trans hp
    · exact (congrArg (fun u : PortUnit => u.egress.transmitter) (State.port_setEgress_self s p _)).trans ht
    · exact congrArg (fun u : PortUnit => u.egress.q3) (State.port_setEgress_self s p _)

/-- A frame of the part's own is not placed, or stands in the slot that it took, to which nothing referred. -/
theorem placeOwn_standsLast (hfree : ∀ k, s.lowestFreeSlot = some k → k ∉ (s.port p).egress.q3) (y : Frame) :
    (∀ k, (s.placeOwn p y).1 ≠ .placed k) ∨
      ∃ k, s.lowestFreeSlot = some k ∧ (s.placeOwn p y).1 = .placed k ∧
        StandsLast p k ⟨y, .agent, s.store.clock, 1⟩ (s.placeOwn p y).2 := by
  rcases placeOwn_cases s p y with ⟨-, e⟩ | ⟨m, -, -, e⟩ | ⟨m, -, -, -, e⟩ | ⟨m, hm, hp, -, e⟩ <;> rw [e]
  · exact .inl nofun
  · exact .inl nofun
  · exact .inl nofun
  · exact .inr ⟨m, hm, rfl, enqueue_standsLast (s := s.fillSlot m y .agent 0) hp (hfree m hm) (lookup_put_self _ _ _) rfl⟩

/-! ## Steps 4 to 6 after the reply has been placed (R145) -/

theorem restartClaimTimer_keeps (station : Word) (s : State) :
    (restartClaimTimer station s).store = s.store ∧ (restartClaimTimer station s).port = s.port ∧
      (restartClaimTimer station s).inService = s.inService ∧
      (restartClaimTimer station s).lowestFreeSlot = s.lowestFreeSlot := by
  rw [restartClaimTimer_eq]
  exact ⟨rfl, rfl, rfl, rfl⟩

/-- What becomes of the reply at its placement, with the claim timer restarted. -/
def replyPlacement (r : Request) (f : Frame) (a : Answer) : Placed × State :=
  (restartClaimTimer r.source a.state).placeOwn r.port (buildReply r f a)

theorem offeredReply_placement (r : Request) (f : Frame) (restart : Bool) (a : Answer) :
    (offeredReply r f restart a).store = (replyPlacement r f a).2.store ∧
      (offeredReply r f restart a).ports = (replyPlacement r f a).2.ports := by
  unfold offeredReply replyPlacement
  dsimp only
  generalize (restartClaimTimer r.source a.state).placeOwn r.port (buildReply r f a) = out
  obtain ⟨pl, u⟩ := out
  cases restart <;> cases pl <;> exact ⟨rfl, rfl⟩

theorem releaseRef_store (h : t.store = s.store) (n : Nat) : (t.releaseRef n).store = (s.releaseRef n).store := by
  have hslot : t.slot n = s.slot n := by unfold State.slot; rw [h]
  unfold State.releaseRef
  rw [hslot]
  cases s.slot n with
  | none => exact h
  | some x =>
    dsimp only
    split
    · dsimp only
      rw [h]
    · unfold State.setSlots
      dsimp only
      rw [h]

/-- Step 6 leaves the ports, the cache and REPLY_LOST, and of the store all but the request's slot. -/
theorem endExecution_keeps (r : Request) (s : State) :
    (endExecution r s).store = (s.releaseRef r.slot).store ∧ (endExecution r s).ports = s.ports ∧
      (endExecution r s).agent.cache = s.agent.cache ∧ (endExecution r s).agent.replyLost = s.agent.replyLost := by
  have hports : (s.releaseRef r.slot).ports = s.ports := releaseRef_ports s r.slot
  have hagent := (releaseRef_only s .t r.slot).agent
  have hcache : (s.releaseRef r.slot).agent.cache = s.agent.cache := congrArg Agent.cache hagent
  have hlost : (s.releaseRef r.slot).agent.replyLost = s.agent.replyLost := congrArg Agent.replyLost hagent
  unfold endExecution State.takeRequest
  dsimp only
  repeat' split
  all_goals exact ⟨rfl, hports, hcache, hlost⟩

/-- The slots of the part after an execution. -/
theorem completeRequest_slot (r : Request) (f : Frame) (restart : Bool) (a : Answer) (n : Nat) :
    (completeRequest r f restart a).slot n = ((replyPlacement r f a).2.releaseRef r.slot).slot n := by
  unfold State.slot
  rw [completeRequest_eq, (endExecution_keeps _ _).1, releaseRef_store (offeredReply_placement r f restart a).1]

theorem completeRequest_port (r : Request) (f : Frame) (restart : Bool) (a : Answer) (q : Port) :
    (completeRequest r f restart a).port q = (replyPlacement r f a).2.port q := by
  unfold State.port
  rw [completeRequest_eq, (endExecution_keeps _ _).2.1, (offeredReply_placement r f restart a).2]

/-- The cache's newest entry is the last to leave it (R149). -/
theorem completeRequest_cached (r : Request) (f : Frame) (restart : Bool) (a : Answer) :
    (completeRequest r f restart a).agent.cache.getLast? = some ⟨r.source, r.id, buildReply r f a⟩ := by
  rw [completeRequest_eq, (endExecution_keeps _ _).2.2.1, offeredReply_agent]
  dsimp only
  rw [List.getLast?_drop, List.length_append, List.getLast?_concat]
  exact if_neg (Nat.not_le.mpr (Nat.sub_lt (Nat.succ_pos _) (by decide)))

/-- The fields of a reply (R147). -/
theorem buildReply_fields (r : Request) (f : Frame) (a : Answer) :
    (buildReply r f a).dest = r.source ∧ (buildReply r f a).kind = .reply ∧ (buildReply r f a).cls = 3 ∧
      (buildReply r f a).tag = none ∧ (buildReply r f a).hops = 15 ∧ (buildReply r f a).seq = f.seq ∧
      (buildReply r f a).check = crc (buildReply r f a).body ∧
      (buildReply r f a).payload.take 3 = wordBytes r.id ++ [commandCode f.payload] :=
  ⟨rfl, rfl, rfl, rfl, rfl, rfl, recheck_check _, rfl⟩

theorem completeRequest_replyTaken (restart : Bool)
    (hfree : ∀ k, a.state.lowestFreeSlot = some k → k ∉ (a.state.port r.port).egress.q3 ∧ k ≠ r.slot)
    (hclock : a.state.store.clock = s.store.clock) (hlost : a.state.agent.replyLost = s.agent.replyLost) :
    ReplyTaken s (completeRequest r f restart a) r f := by
  obtain ⟨hdest, hkind, hcls, htag, hhops, hseq, hcheck, hpayload⟩ := buildReply_fields r f a
  refine ⟨buildReply r f a, completeRequest_cached r f restart a, hdest, hkind, hcls, htag, hhops, hseq, hcheck, hpayload, ?_⟩
  have hcount := (endExecution_keeps r (offeredReply r f restart a)).2.2.2
  rw [← completeRequest_eq, offeredReply_agent, hlost] at hcount
  dsimp only at hcount
  obtain ⟨hstore, hport, -, hlowest⟩ := restartClaimTimer_keeps r.source a.state
  rcases placeOwn_standsLast (s := restartClaimTimer r.source a.state) (p := r.port)
    (fun k hk => by rw [hport]; exact (hfree k (hlowest ▸ hk)).1) (buildReply r f a) with hnot | ⟨k, hk, hplaced, hslot, hlast⟩
  · refine .inl (hcount.trans ?_)
    generalize ((restartClaimTimer r.source a.state).placeOwn r.port (buildReply r f a)).1 = pl at hnot
    cases pl with
    | placed k => exact absurd rfl (hnot k)
    | noSlot | notOffered | queueFull => rfl
  · refine .inr ⟨hcount.trans ?_, k, ?_, ?_⟩
    · rw [hplaced]
      exact BitVec.add_zero _
    · have hother : k ≠ r.slot := (hfree k (hlowest ▸ hk)).2
      rw [completeRequest_slot, (releaseRef_only _ r.port r.slot).slots k (fun h => hother (List.mem_singleton.mp h))]
      rw [← hclock, ← hstore]
      exact hslot
    · rw [completeRequest_port]
      exact hlast

end Sys2Proof.Machine

namespace Sys2Proof.Safety

open Sys2Proof.Machine

variable {s t : State} {r : Request} {f : Frame} {a : Answer} {i : Instr} {mine : List Byte → Bool} {k : Nat}

/-! ## What a command leaves for the reply -/

theorem clock_keptByPorts (c : Nat) : KeptByPorts (fun s => s.store.clock = c) where
  egress := fun _ _ _ h => h
  count := fun _ _ _ h => h
  report := fun s n h => (reportEnd_only s .t n).clock.trans h
  release := fun s n h => (releaseRef_only s .t n).clock.trans h
  addRef := fun s n h => (addRef_only s .t n).clock.trans h
  setPort := fun _ _ _ h => h
  trunk := fun s h => by
    rcases trunkLeavesActive_cases s with ⟨_, e⟩ | ⟨_, e⟩ <;> rw [e]
    · rw [(loseSync_only s 1).1]
      exact h
    · exact h
  forget := fun _ _ h => h
  claimSlot := fun s p f h => by
    rcases claimSlot_cases s p f with ⟨-, e⟩ | ⟨-, -, e⟩ | ⟨-, n, -, e⟩ <;> rw [e] <;> exact h
  discard := fun _ h => h
  raise := fun _ _ _ h => h

theorem settleReady_clock (s : State) : s.settleReady.store.clock = s.store.clock := by rw [settleReady_eq]

theorem CommandEffect.clock (he : CommandEffect r s t) : t.store.clock = s.store.clock := by
  have hports := clock_keptByPorts s.store.clock
  cases he
  case setPort p payload mode _ => exact hports.applyMode (hports.setPort _ _ _ rfl)
  case ack => exact settleReady_clock _
  case setNotice => exact settleReady_clock _
  case traffic => rw [restartTraffic_eq]
  all_goals rfl

theorem CommandEffect.replyLost (he : CommandEffect r s t) : t.agent.replyLost = s.agent.replyLost := by
  have hports : KeptByPorts (fun u => u.agent.replyLost = s.agent.replyLost) :=
    agent_keptByPorts (Q := fun a => a.replyLost = s.agent.replyLost) (fun _ _ h => h)
  cases he
  case setPort p payload mode _ => exact hports.applyMode (hports.setPort _ _ _ rfl)
  case ack => exact congrArg Agent.replyLost (settleReady_agent _)
  case setNotice => exact congrArg Agent.replyLost (settleReady_agent _)
  case traffic => rw [restartTraffic_agent]
  all_goals rfl

/-- While a request stands in the execution position no reset is under way, and every reference has its holder. -/
theorem balanced_of_executing (he : Executing s r f) (hslots : SlotsOk s) (hrefs : RefsOk s) : Balanced [] s := by
  obtain ⟨-, hheld, hexecuting⟩ := Executing_running he
  unfold RefsOk at hrefs
  split at hrefs
  next =>
    have hnone := hrefs.1 r.slot
    unfold holders at hnone
    rw [hexecuting] at hnone
    simp at hnone
  next hawake =>
    obtain ⟨-, hsweeping⟩ := not_or.mp hawake
    refine ⟨hslots.1, ⟨hheld, Bool.eq_false_iff.mpr hsweeping⟩, fun n => ?_, fun n => (hrefs n).2⟩
    rw [(hrefs n).1, List.count_nil, Nat.add_zero]

/-- Nothing refers to a free slot, and the executing request refers to a held one. -/
theorem Balanced.free_unused (h : Balanced [] s) (hexecuting : s.agent.executing = some r)
    (hk : s.lowestFreeSlot = some k) (p : Port) : k ∉ (s.port p).egress.q3 ∧ k ≠ r.slot := by
  have hnone : Safety.holders s k = 0 := by
    have hcount := h.refs k
    rw [refCount_none (lowestFreeSlot_free hk).2] at hcount
    omega
  refine ⟨fun hmem => ?_, fun hrequest => ?_⟩
  · have hport : 1 ≤ (queuedSlots (s.port p).egress).count k :=
      List.one_le_count_iff.mpr (mem_queuedSlots_of_queue (c := 3) hmem)
    have hle : (queuedSlots (s.port p).egress).count k ≤ portHolds s p k :=
      Nat.le_trans (Nat.le_add_right _ _) (Nat.le_add_right _ _)
    unfold Safety.holders at hnone
    cases p <;> omega
  · subst hrequest
    unfold Safety.holders at hnone
    rw [hexecuting] at hnone
    simp at hnone

/-- A command leaves a free slot that nothing refers to, so its reply is taken. -/
theorem CommandEffect.replyTaken (ha : CommandEffect r s a.state) (he : Executing s r f) (hslots : SlotsOk s)
    (hrefs : RefsOk s) : ReplyTaken s (completeRequest r f false a) r f := by
  have hbalanced := (balanced_of_executing he hslots hrefs).command ha
  have hexecuting := ha.executing.trans (Executing_running he).2.2
  exact completeRequest_replyTaken false (fun k hk => hbalanced.free_unused hexecuting hk r.port) ha.clock ha.replyLost

/-! ## The rows of the 25 commands -/

/-- The event `i` executes the requests that `mine` names, with a command of the model. -/
def ExecutionRow (i : Instr) (mine : List Byte → Bool) : Prop :=
  ∃ judge, (∀ s, exec i s = .next (runRequest mine judge s)) ∧ ∀ r payload s, CommandEffect r s (judge r payload s).state

/-- The event takes the request in the execution position, and its reply is placed or lost. -/
def TakesRequest (i : Instr) (s : State) (r : Request) (f : Frame) : Prop := ∃ t, exec i s = .next t ∧ ReplyTaken s t r f

theorem ExecutionRow.takes (h : ExecutionRow i mine) (he : Executing s r f) (hslots : SlotsOk s) (hrefs : RefsOk s)
    (hm : mine f.payload = true) : TakesRequest i s r f := by
  obtain ⟨judge, hi, heffect⟩ := h
  exact ⟨_, (hi s).trans (congrArg Host.Outcome.next (runRequest_executing he hm judge)),
    (heffect r f.payload s).replyTaken he hslots hrefs⟩

theorem runRequest_foreign (he : Executing s r f) (hm : mine f.payload = false)
    (judge : Request → List Byte → State → Answer) : runRequest mine judge s = s := by
  unfold runRequest
  rw [show s.executable = some (r, f) from he]
  exact if_neg (Bool.eq_false_iff.mp hm)

theorem ExecutionRow.stays_or_takes (h : ExecutionRow i mine) (he : Executing s r f) (hslots : SlotsOk s) (hrefs : RefsOk s) :
    exec i s = .next s ∨ TakesRequest i s r f := by
  cases hm : mine f.payload with
  | true => exact .inr (h.takes he hslots hrefs hm)
  | false =>
    obtain ⟨judge, hi, -⟩ := h
    exact .inl ((hi s).trans (congrArg Host.Outcome.next (runRequest_foreign he hm judge)))

theorem claimCommands_rows : ∀ c ∈ claimCommands, ExecutionRow c.1 (isCommand c.2.1) := by
  simp only [claimCommands, List.forall_mem_cons]
  exact ⟨⟨_, fun _ => rfl, setAddress_effect⟩, ⟨_, fun _ => rfl, setPort_effect⟩, ⟨_, fun _ => rfl, writeBankHead_effect⟩,
    ⟨_, fun _ => rfl, writeRule_effect⟩, ⟨_, fun _ => rfl, clearRule_effect⟩, ⟨_, fun _ => rfl, copyBank_effect⟩,
    ⟨_, fun _ => rfl, switchBank_effect⟩, ⟨_, fun _ => rfl, writeStation_effect⟩, ⟨_, fun _ => rfl, deleteStation_effect⟩,
    ⟨_, fun _ => rfl, flushStations_effect⟩, ⟨_, fun _ => rfl, setAging_effect⟩, ⟨_, fun _ => rfl, rearmMeter_effect⟩,
    ⟨_, fun _ => rfl, setSync_effect⟩, ⟨_, fun _ => rfl, setNotice_effect⟩, ⟨_, fun _ => rfl, setMeter_effect⟩,
    List.forall_mem_nil _⟩

theorem openCommands_rows : ∀ c ∈ openCommands, ExecutionRow c.1 (isCommand c.2.1) := by
  simp only [openCommands, List.forall_mem_cons]
  exact ⟨⟨_, fun _ => rfl, identify_effect⟩, ⟨_, fun _ => rfl, readStatus_effect⟩, ⟨_, fun _ => rfl, claim_effect⟩,
    ⟨_, fun _ => rfl, release_effect⟩, ⟨_, fun _ => rfl, readRule_effect⟩, List.forall_mem_nil _⟩

theorem readPort_row (clear : Bool) :
    ExecutionRow (if clear then .readPortClear else .readPort) (isRead 0x07 clear) := by
  cases clear
  · exact ⟨_, fun _ => rfl, readPort_effect⟩
  · exact ⟨_, fun _ => rfl, readPortClear_effect⟩

theorem readMeter_row (clear : Bool) :
    ExecutionRow (if clear then .readMeterClear else .readMeter) (isRead 0x14 clear) := by
  cases clear
  · exact ⟨_, fun _ => rfl, readMeter_effect⟩
  · exact ⟨_, fun _ => rfl, readMeterClear_effect⟩

theorem readStationAddress_row : ExecutionRow .readStationAddress (isForm 0x1A 1) := ⟨_, fun _ => rfl, readStationAddress_effect⟩

theorem readStationIndex_row : ExecutionRow .readStationIndex (isForm 0x1A 0) := ⟨_, fun _ => rfl, readStationIndex_effect⟩

theorem noticeAck_row : ExecutionRow .noticeAck (isCommand 0x17) := ⟨_, fun _ => rfl, noticeAck_effect⟩

theorem restartTraffic_row : ExecutionRow .restartTraffic (isForm 0x18 0) := ⟨_, fun _ => rfl, restartTraffic_effect⟩

theorem unknownCommand_row : ExecutionRow .unknownCommand isUnknown := ⟨_, fun _ => rfl, fun _ _ _ => .nothing⟩

/-! ## RESTART FULL, the row that marks its reply -/

theorem restartFull_takes (he : Executing s r f) (hslots : SlotsOk s) (hrefs : RefsOk s)
    (hm : isForm 0x18 1 f.payload = true) : TakesRequest .restartFull s r f := by
  refine ⟨_, exec_restartFull he hm, ?_⟩
  rcases restartFull_effect r f.payload s with ⟨hst, hstate⟩ | ⟨-, hstate⟩
  · rw [decide_eq_false hst]
    exact CommandEffect.replyTaken (by rw [hstate]; exact .nothing) he hslots hrefs
  · have hunused : ∀ k, s.lowestFreeSlot = some k → k ∉ (s.port r.port).egress.q3 ∧ k ≠ r.slot := fun k hk =>
      (balanced_of_executing he hslots hrefs).free_unused (Executing_running he).2.2 hk r.port
    refine completeRequest_replyTaken _ ?_ ?_ ?_ <;> rw [hstate]
    exact hunused

theorem restartFull_stays_or_takes (he : Executing s r f) (hslots : SlotsOk s) (hrefs : RefsOk s) :
    exec .restartFull s = .next s ∨ TakesRequest .restartFull s r f := by
  cases hm : isForm 0x18 1 f.payload with
  | true => exact .inr (restartFull_takes he hslots hrefs hm)
  | false =>
    refine .inl (congrArg Host.Outcome.next ?_)
    unfold runRestartFull
    rw [show s.executable = some (r, f) from he]
    exact if_neg (Bool.eq_false_iff.mp hm)

/-! ## All rows together -/

theorem executions_rows : ∀ i ∈ executions, i = .restartFull ∨ ∃ mine, ExecutionRow i mine := by
  intro i hi
  unfold executions at hi
  rw [List.mem_append, List.mem_append] at hi
  rcases hi with (hi | hi) | hi
  · obtain ⟨c, hc, rfl⟩ := List.mem_map.mp hi
    exact .inr ⟨_, claimCommands_rows c hc⟩
  · obtain ⟨c, hc, rfl⟩ := List.mem_map.mp hi
    exact .inr ⟨_, openCommands_rows c hc⟩
  · revert i
    simp only [List.forall_mem_cons]
    exact ⟨.inr ⟨_, readPort_row false⟩, .inr ⟨_, readPort_row true⟩, .inr ⟨_, readMeter_row false⟩,
      .inr ⟨_, readMeter_row true⟩, .inr ⟨_, readStationAddress_row⟩, .inr ⟨_, readStationIndex_row⟩,
      .inr ⟨_, noticeAck_row⟩, .inl trivial, .inr ⟨_, restartTraffic_row⟩, .inr ⟨_, unknownCommand_row⟩, List.forall_mem_nil _⟩

theorem code_listed (c : Byte) :
    (∃ d ∈ claimCommands, c = d.2.1) ∨ (∃ d ∈ openCommands, c = d.2.1) ∨ c = 0x07 ∨ c = 0x14 ∨ c = 0x1A ∨ c = 0x17 ∨
      c = 0x18 ∨ knownCommand c = false := by
  revert c; decide

/-- Whatever request stands in the execution position, one of the rows takes it (R145). -/
theorem some_row_takes (he : Executing s r f) (hslots : SlotsOk s) (hrefs : RefsOk s) :
    ∃ i ∈ executions, TakesRequest i s r f := by
  have hmem : ∀ i, i ∈ [Instr.readPort, .readPortClear, .readMeter, .readMeterClear, .readStationAddress, .readStationIndex,
      .noticeAck, .restartFull, .restartTraffic, .unknownCommand] → i ∈ executions :=
    fun i hi => List.mem_append_right _ hi
  rcases code_listed (commandCode f.payload) with ⟨c, hc, hcode⟩ | ⟨c, hc, hcode⟩ | hcode | hcode | hcode | hcode | hcode | hcode
  · exact ⟨c.1, List.mem_append_left _ (List.mem_append_left _ (List.mem_map_of_mem hc)),
      (claimCommands_rows c hc).takes he hslots hrefs (decide_eq_true hcode)⟩
  · exact ⟨c.1, List.mem_append_left _ (List.mem_append_right _ (List.mem_map_of_mem hc)),
      (openCommands_rows c hc).takes he hslots hrefs (decide_eq_true hcode)⟩
  · refine ⟨_, ?_, (readPort_row (clearFlag f.payload)).takes he hslots hrefs (isRead_of_code hcode rfl)⟩
    cases clearFlag f.payload <;> exact hmem _ (by decide)
  · refine ⟨_, ?_, (readMeter_row (clearFlag f.payload)).takes he hslots hrefs (isRead_of_code hcode rfl)⟩
    cases clearFlag f.payload <;> exact hmem _ (by decide)
  · by_cases hform : argByte f.payload 0 = 1
    · exact ⟨_, hmem .readStationIndex (by decide),
        readStationIndex_row.takes he hslots hrefs (isForm_of hcode (by rw [hform]; decide))⟩
    · exact ⟨_, hmem .readStationAddress (by decide), readStationAddress_row.takes he hslots hrefs (isForm_of hcode hform)⟩
  · exact ⟨_, hmem .noticeAck (by decide), noticeAck_row.takes he hslots hrefs (decide_eq_true hcode)⟩
  · by_cases hkind : argByte f.payload 0 = 1
    · exact ⟨_, hmem .restartTraffic (by decide),
        restartTraffic_row.takes he hslots hrefs (isForm_of hcode (by rw [hkind]; decide))⟩
    · exact ⟨_, hmem .restartFull (by decide), restartFull_takes he hslots hrefs (isForm_of hcode hkind)⟩
  · exact ⟨_, hmem .unknownCommand (by decide),
      unknownCommand_row.takes he hslots hrefs (by unfold isUnknown; rw [hcode]; rfl)⟩

/-! ## The reply of an IDENTIFY, at a transmitter that is SENDING or has nothing queued -/

theorem Executing.slot_some (he : Executing s r f) : ∃ x, s.slot r.slot = some x := by
  have hexecuting := (Executing_running he).2.2
  unfold Executing State.executable at he
  rw [hexecuting] at he
  dsimp only at he
  cases hx : s.slot r.slot with
  | some x => exact ⟨x, rfl⟩
  | none =>
    rw [hx] at he
    simp at he

/-- A frame of the part's own at a port in service with room in class queue 3. -/
theorem ownFrameOffered_room {p : Port} {n : Nat} (hp : s.inService p = true) (hroom : (s.port p).egress.q3.length < 32)
    (y : Frame) :
    (ownFrameOffered s p n y).slot n = some ⟨y, .agent, s.store.clock, 1⟩ ∧
      (ownFrameOffered s p n y).port p = placedUnit (s.port p) 3 n false := by
  unfold ownFrameOffered
  rw [if_neg (by rw [hp]; decide), if_neg (Nat.not_le.mpr hroom)]
  exact ⟨lookup_put_self _ _ _, PerPort.get_set_self _ _ _⟩

/-- The reply to a request at such a port, after the execution. -/
structure ReplyStands (s t : State) (r : Request) (n : Nat) (reply : Frame) : Prop where
  slot : t.slot n = some ⟨reply, .agent, s.store.clock, 1⟩
  port : t.port r.port = placedUnit (s.port r.port) 3 n false
  released : ∀ x, s.slot r.slot = some x →
    t.slot r.slot = if x.refs ≤ 1 then none else some { x with refs := x.refs - 1 }

theorem completeRequest_stands {n : Nat} (he : Executing s r f) (hslots : SlotsOk s) (hn : s.lowestFreeSlot = some n)
    (hp : s.inService r.port = true) (hroom : (s.port r.port).egress.q3.length < 32) (hset : settledAt s r.port)
    (ha : a.state = s) : ReplyStands s (completeRequest r f false a) r n (buildReply r f a) := by
  obtain ⟨hstore, hport, hservice, hlowest⟩ := restartClaimTimer_keeps r.source s
  have hplaced : (replyPlacement r f a).2 = ownFrameOffered (restartClaimTimer r.source s) r.port n (buildReply r f a) := by
    unfold replyPlacement
    rw [ha]
    exact placeOwn_offered (hlowest.trans hn) (by unfold settledAt; rw [hport]; exact hset)
  generalize restartClaimTimer r.source s = u at hstore hport hservice hplaced
  have hslot : u.slot = s.slot := by unfold State.slot; rw [hstore]
  have hother : n ≠ r.slot := fun h => by
    obtain ⟨x, hx⟩ := he.slot_some
    have hfree := (lowestFreeSlot_free hn).2
    rw [h, hx] at hfree
    cases hfree
  obtain ⟨hnew, hunit⟩ := ownFrameOffered_room (s := u) (n := n) (by rw [hservice]; exact hp) (by rw [hport]; exact hroom)
    (buildReply r f a)
  refine ⟨?_, ?_, fun x hx => ?_⟩
  · rw [completeRequest_slot, (releaseRef_only _ r.port r.slot).slots n (fun h => hother (List.mem_singleton.mp h)), hplaced,
      hnew, hstore]
  · rw [completeRequest_port, hplaced, hunit, hport]
  · rw [completeRequest_slot, hplaced,
      releaseRef_slot (rising_ownFrameOffered (by rw [hstore]; exact hslots.1) r.port n (buildReply r f a)),
      slot_ownFrameOffered (Ne.symm hother), hslot, hx]
    exact if_neg (Classical.not_not.mpr rfl)

/-- Settles O52: the reply of an IDENTIFY at a transmitter that is SENDING or has nothing queued, and every row by its
command's effect. -/
theorem replyIsPlaced : Obligations.ReplyIsPlaced := by
  unfold Obligations.ReplyIsPlaced
  refine ⟨fun s r f n he hasks hslots hn hp hroom => ?identify, fun s r f he hslots hrefs => ⟨fun i hi => ?_, ?_⟩⟩
  case identify =>
    have hrun : s.device.state = .running := (Executing_running he).1
    have hanswer := withForm_ok (s := s) (a := ⟨.ok, ([0x2D, 0x0B, 0x51, 1] : List Byte) ++ wordBytes s.agent.address ++
      byte s.agent.restartCount, s⟩) hasks.2
    generalize ha : Answer.mk .ok (([0x2D, 0x0B, 0x51, 1] : List Byte) ++ wordBytes s.agent.address ++
      byte s.agent.restartCount) s = a at hanswer
    have hstate : a.state = s := by rw [← ha]
    have hexec : exec .identify s = .next (completeRequest r f false a) := by
      refine (congrArg Host.Outcome.next (runRequest_executing he (isCommand_of_asks hasks) identifyCommand)).trans ?_
      rw [← hanswer, ← ha]
      rfl
    have hanswered := completeRequest_answered r f a (by rw [hstate]; exact hrun)
    rw [hstate, ← ha] at hanswered
    obtain ⟨hdest, hkind, hcls, htag, hhops, hseq, hcheck, -⟩ := buildReply_fields r f a
    refine ⟨_, buildReply r f a, hexec, hdest, ?_, hkind, hcls, htag, hhops, hseq, hcheck, ?_,
      completeRequest_cached r f false a, fun m ht => ?_, fun ht hempty => ?_⟩
    · rw [← ha]
      rfl
    · rw [← ha]
      exact hanswered
    · have hstands := completeRequest_stands he hslots hn hp hroom (fun h => nomatch ht.symm.trans h) hstate
      refine ⟨hstands.slot, hstands.port.trans ?_, hstands.released⟩
      refine (if_neg (Nat.not_le.mpr hroom)).trans (if_pos ?_)
      rw [ht]
      exact nofun
    · have hstands := completeRequest_stands he hslots hn hp hroom (fun _ => hempty) hstate
      refine ⟨hstands.slot, hstands.port.trans ?_⟩
      exact (if_neg (Nat.not_le.mpr hroom)).trans ((if_neg (Classical.not_not.mpr ht)).trans (if_neg nofun))
  · rcases executions_rows i hi with rfl | ⟨mine, hrow⟩
    · exact restartFull_stays_or_takes he hslots hrefs
    · exact hrow.stays_or_takes he hslots hrefs
  · exact some_row_takes he hslots hrefs

end Sys2Proof.Safety
end
